-- ==== Sys2Proof/Word.lean ====
section
/-! DEFINITION. The word types of the block: the 32-bit register word and the 64-bit command beat
(`10_state.md` R21, `30_encoding.md` R90). -/

namespace Sys2Proof

/-- A register of the register space is 32 bits wide (R21). -/
abbrev Word := BitVec 32

/-- A command is one 64-bit word, the command beat (R90). -/
abbrev Beat := BitVec 64

/-- One half of the ADC sample buffer: half 0 or half 1 (`20_memory.md` R72). -/
abbrev Half := Fin 2

/-- A commutation step, `PHD.STEP`, 0 to 5; 6 and 7 never occur (`10_state.md` R27). -/
abbrev CommStep := Fin 6

/-- A register of the settings bank: register `0x80 + n` is number `n`, 27 of them (R53). -/
abbrev Setting := Fin 27

end Sys2Proof
end

