-- ==== Sys2Proof/Syntax.lean ====
section
/-! DEFINITION. The operations of the block, one constructor per row of `spec/opcode_table.json`
(`30_encoding.md` R93), the names its operands stand for (events, drive modes, registers), and the
moves of the six agents and of the reset input (`00_scope.md` R6, `70_reset_and_hazards.md` R270). -/

namespace Sys2Proof

/-- The ten events, in the order of their codes 0 to 9 (`60_exceptions.md` R246). -/
inductive Event where
  | fault | arm | start | commutated | zcd | closed | overcurrent | timeout | stop | auto
  deriving DecidableEq, Repr

/-- The six drive modes, in the order of their codes 0 to 5 (`44_phase_driver.md` R187). -/
inductive DriveMode where
  | lowOnPwmHigh | lowOnPwmLow | lowOnPwmBoth | highOnPwmLow | highOnPwmHigh | highOnPwmBoth
  deriving DecidableEq, Repr

/-- The three phases, numbered 0 = A, 1 = B, 2 = C (R186). -/
inductive Phase where
  | a | b | c
  deriving DecidableEq, Repr

/-- The 55 mapped registers (`10_state.md` R21); `set n` is register `0x80 + n` of the settings
bank (R53). -/
inductive Reg where
  | sysCnt | sysStat | sysGlitchCnt
  | phdCtrl | phdDc | phdGates | phdPwmfreq
  | fltCtrl | fltLen | fltSum | fltPtr | fltNavg | fltScalar | fltCurAcc | fltBatAcc
  | telDuty | telSpeed | telSetpoint | telCurrentMa | telBatteryMv | telConsecDet | telConsecMiss
  | telErrAccum | telLocked | telLastSwap | telLastZcd
  | schCtrl | schDeadline
  | set (n : Setting)
  deriving DecidableEq, Repr

/-- The sixteen operations (R93). `a` is field A of the beat, `imm` is field IMM, both as the beat
carries them (R94): an operand that is legal at decode and invalid for the operation is handled by
the operation's own rule (R95). -/
inductive Instr where
  /-- `SYS.NOP` (`40_system.md` R110) -/
  | sysNop
  /-- `SYS.RDREG a`, `a` the register index (R111) -/
  | sysRdreg (a : BitVec 8)
  /-- `SYS.WRREG a, imm`, `a` the register index, `imm` the data (R112) -/
  | sysWrreg (a : BitVec 8) (imm : Word)
  /-- `SYS.TELZERO` (R113) -/
  | sysTelzero
  /-- `PID.STEP` (`41_pid_control_law.md` R120) -/
  | pidStep
  /-- `FLT.SAMPLE a`, `a` the half of ADCBUF (`42_bemf_filter.md` R140) -/
  | fltSample (a : BitVec 8)
  /-- `SCH.SCHEDULE a, imm`, `a` the event code, `imm` the delay in microseconds
  (`43_scheduler.md` R170) -/
  | schSchedule (a : BitVec 8) (imm : Word)
  /-- `SCH.INJECT a`, `a` the event code (R171) -/
  | schInject (a : BitVec 8)
  /-- `SCH.FIRE` (R176) -/
  | schFire
  /-- `PHD.INIT a, imm`, `a` the initial drive mode, `imm` the configuration word
  (`44_phase_driver.md` R190) -/
  | phdInit (a : BitVec 8) (imm : Word)
  /-- `PHD.OFF` (R191) -/
  | phdOff
  /-- `PHD.ARM` (R192) -/
  | phdArm
  /-- `PHD.SETMODE a`, `a` the drive mode (R193) -/
  | phdSetmode (a : BitVec 8)
  /-- `PHD.SETDUTY imm`, `imm` the duty count (R194) -/
  | phdSetduty (imm : Word)
  /-- `PHD.SETSTATE a`, `a` the commutation step (R195) -/
  | phdSetstate (a : BitVec 8)
  /-- `PHD.NEXT` (R196) -/
  | phdNext
  deriving DecidableEq, Repr

/-- One frame: four samples taken at the same instant, in channel order 0 = phase A voltage,
1 = phase B voltage, 2 = phase C voltage, 3 = motor current (`20_memory.md` R72). -/
structure Frame where
  a : BitVec 16
  b : BitVec 16
  c : BitVec 16
  i : BitVec 16
  deriving DecidableEq, Repr

/-- One step of one agent (R6), or the reset input (R270). A beat is the host's step; the other
moves have no encoding (`30_encoding.md` R98). -/
inductive Move where
  /-- HOST issues one command beat (R90). -/
  | beat (w : Beat)
  /-- CLOCK: the counter advances by one microsecond (`43_scheduler.md` R173). -/
  | tick
  /-- ADC writes half `h` of the sample buffer (`20_memory.md` R74). The frames the list does not
  give are free samples. -/
  | adc (h : Half) (frames : List Frame)
  /-- FLTSVC, the ADC-complete interrupt (`42_bemf_filter.md` R142). -/
  | fltsvc
  /-- SCHSVC, the compare-match interrupt (`43_scheduler.md` R174). -/
  | schsvc
  /-- TMO, the generic periodic timeout (R175). -/
  | tmo
  /-- The reset input is asserted (`70_reset_and_hazards.md` R270). -/
  | reset
  deriving DecidableEq, Repr

end Sys2Proof
end

