-- ==== Sys2Proof/Config.lean ====
section
/-! DEFINITION. The implementation parameters as one configuration record (`00_scope.md` R7, R8), with
the environment's free choices beside them, and the one configuration of the machine, an opaque
constant: a claim about the machine holds for every configuration the spec allows. -/

namespace Sys2Proof

/-- `LOCK_COUNT`, fixed: detections needed before control engages (R7). -/
def lockCount : Nat := 12
/-- `FLT_SHIFT`, fixed: speed to bucket shift (R7). -/
def fltShift : Nat := 7
/-- `CUR_SHIFT`, fixed: the current smoother's weight is 1/128 (R7). -/
def curShift : Nat := 7
/-- `BAT_SHIFT`, fixed: the battery smoother's weight is 1/16384 (R7). -/
def batShift : Nat := 14

/-- The open parameters of R7 with the constraints of R7 and R8 as proof fields, so that an
ill-formed instantiation cannot be built (`93_implementation_defined.md` U7: refuse). Each default
is R7's reference value: it makes `{}` the reference configuration of `95_test_vectors.md` and shows
the constraints are consistent; the machine's own configuration is `Config.impl`, of which nothing
but the constraints is known. The last three fields are no parameters of the block: they are the
free choices of its environment (U1, U2, U3). -/
structure Config where
  /-- `ADC_W`, the width of one ADC sample. -/
  adcW : Nat := 12
  /-- `NF`, the sample frames in one half of ADCBUF. -/
  nf : Nat := 1
  /-- `MAX_RUNNING_FILTER`, the absolute maximum window size. -/
  maxRunningFilter : Nat := 64
  /-- `NB`, the number of RPM buckets of `FLT_TABLE`. -/
  nb : Nat := 64
  /-- `FLT_TABLE`, the RPM to window length table. -/
  fltTable : Nat → Nat := fun i => 560 / (i + 1)
  /-- `DEMAG_BLANKING_US`, microseconds after a commutation during which batches are dropped. -/
  demagBlankingUs : Nat := 100
  /-- `DC_ONE`, the duty count that means fraction 1. -/
  dcOne : Nat := 1000
  /-- `HW_MAX_DC`, the hardware maximum duty. -/
  hwMaxDc : Nat := 950
  /-- `BATT_DC_MIN`, the duty above which the battery estimate runs. -/
  battDcMin : Nat := 95
  /-- `CURCAL`, ADC current sample to milliamperes. -/
  curcal : Nat → Nat := fun s => s * 10
  /-- `BATT_EST`, battery millivolts from the driven-phase sample and the duty. -/
  battEst : Nat → Nat → Nat := fun s dc => min 65535 (s * 10 * dcOne / dc)
  /-- `POL`, the polarity sign of each step for forward rotation. -/
  pol : CommStep → Int := fun st => if st.val % 2 = 0 then -1 else 1
  /-- `ZC_EDGE`, whether a crossing needs the sum to have been below zero before. -/
  zcEdge : Bool := true
  /-- `PID_SCALE`, the controller output that means duty fraction 1. -/
  pidScale : Nat := 32768
  /-- `FF`, the feedforward term from speed, Kv, Kff2 and battery millivolts; the reference is
  `41_pid_control_law.md` R128's. -/
  ff : Int → Int → Int → Int → Int := fun cs kv _ vb =>
    if 0 < kv ∧ 0 < vb then Int.tdiv (pidScale * cs * 1000) (kv * vb) else 0
  adcW_range : 1 ≤ adcW ∧ adcW ≤ 16 := by decide
  nf_pos : 1 ≤ nf := by decide
  maxRunningFilter_range : 1 ≤ maxRunningFilter ∧ maxRunningFilter ≤ 32767 := by decide
  nb_min : 40 ≤ nb := by decide
  fltTable_range : ∀ i, i < nb → 1 ≤ fltTable i ∧ fltTable i ≤ 65535 := by decide
  fltTable_antitone : ∀ i j, i ≤ j → j < nb → fltTable j ≤ fltTable i := by
    intro i j h _; exact Nat.div_le_div_left (by omega) (by omega)
  fltTable_bucket39 : fltTable 39 = 14 := by decide
  demagBlankingUs_range : demagBlankingUs < 2 ^ 32 := by decide
  dcOne_range : 1 ≤ dcOne ∧ dcOne ≤ 65535 := by decide
  hwMaxDc_le : hwMaxDc ≤ dcOne := by decide
  battDcMin_le : battDcMin ≤ hwMaxDc := by decide
  /-- `CURCAL`'s result is in 0..2^24-1 for every sample (16 bits at most). -/
  curcal_range : ∀ s, s < 2 ^ adcW → curcal s < 2 ^ 24 := by intro s h; simp at h; omega
  battEst_range : ∀ s dc, 1 ≤ dc → battEst s dc ≤ 65535 := by
    intro s dc _; exact Nat.min_le_left _ _
  pol_sign : ∀ st, pol st = 1 ∨ pol st = -1 := by decide
  pidScale_range : 1 ≤ pidScale ∧ pidScale < 2 ^ 31 := by decide
  /-- FREE VALUE: which agent moves next when the script names none, by the number of the step
  (U3, U14: any interleaving of whole steps, any beat). -/
  envMove : Nat → Move := fun _ => .tick
  /-- FREE VALUE: the samples of an ADC step that the move does not give, by the number of the step,
  the frame and the channel (U2). -/
  adcSample : Nat → Nat → Nat → BitVec 16 := fun _ _ _ => 0
  /-- FREE VALUE: what ADCBUF holds before the ADC agent's first step after a reset, by the number of
  the step at which the reset came and the element's address (U1). -/
  adcInitial : Nat → Nat → BitVec 16 := fun _ _ => 0
  deriving Inhabited

/-- The configuration of the machine: an opaque constant with no body, so every open parameter and
every free choice is unknown to every proof, but for the constraints R7 and R8 state. -/
opaque Config.impl : Config

end Sys2Proof
end

