-- ==== Sys2Proof/WellFormed.lean ====
section
/-! DEFINITION. The operand checks a decoder makes (`30_encoding.md` R95 cases 4 and 5): the half of
FLT.SAMPLE and the event code of SCH.SCHEDULE and SCH.INJECT. Every other operand value a beat can
carry is legal at decode. -/

namespace Sys2Proof

/-- FLT.SAMPLE takes half 0 or 1 (R95 case 4). -/
abbrev HalfOk (a : BitVec 8) : Prop := a.toNat ≤ 1

/-- There are ten event codes, 0 to 9 (R95 case 5). -/
abbrev EventOk (a : BitVec 8) : Prop := a.toNat ≤ 9

/-- An instruction some beat encodes: its operands are legal at decode (R95). -/
def Instr.wellFormed : Instr → Bool
  | .sysNop => true
  | .sysRdreg _ => true
  | .sysWrreg _ _ => true
  | .sysTelzero => true
  | .pidStep => true
  | .fltSample a => decide (HalfOk a)
  | .schSchedule a _ => decide (EventOk a)
  | .schInject a => decide (EventOk a)
  | .schFire => true
  | .phdInit _ _ => true
  | .phdOff => true
  | .phdArm => true
  | .phdSetmode _ => true
  | .phdSetduty _ => true
  | .phdSetstate _ => true
  | .phdNext => true

/-- `wellFormed` as a proposition. -/
abbrev Instr.WellFormed (i : Instr) : Prop := i.wellFormed = true

end Sys2Proof
end

