-- ==== Sys2Proof/Decode.lean ====
section
/-! DEFINITION. The fields of a command beat, the decoder with its named rejections, the encoder, the
opcode table as match and mask rows, the register index map, and the pseudo-instructions
(`30_encoding.md` R90 to R98, `10_state.md` R21). -/

namespace Sys2Proof

/-- Field UNIT, bits 63:60 (R90). -/
def unitField (w : Beat) : BitVec 4 := w.extractLsb' 60 4
/-- Field FUNC, bits 59:56. -/
def funcField (w : Beat) : BitVec 4 := w.extractLsb' 56 4
/-- Field A, bits 55:48. -/
def aField (w : Beat) : BitVec 8 := w.extractLsb' 48 8
/-- Field RSV, bits 47:32, which must be 0. -/
def rsvField (w : Beat) : BitVec 16 := w.extractLsb' 32 16
/-- Field IMM, bits 31:0. -/
def immField (w : Beat) : Word := w.extractLsb' 0 32

/-- `s32(w)`: a word read as a two's complement integer (`00_scope.md` R10). -/
def s32 (w : Word) : Int := w.toInt

/-- `u32(v) = v mod 2^32` (R10). -/
def u32 (v : Int) : Word := BitVec.ofInt 32 v

/-- Why a beat is illegal: the five cases of R95, in the order they are tested. -/
inductive Illegal where
  /-- Case 1: `w[47:32] != 0`. Raised by the decoder; the beat is answered ILLEGAL; safe. -/
  | reservedBits
  /-- Case 2: no operation has this unit and function. Raised by the decoder; safe. -/
  | unknownOperation
  /-- Case 3: a field the operation's format does not use is non-zero. Raised by the decoder; safe. -/
  | unusedField
  /-- Case 4: FLT.SAMPLE with A above 1. Raised by the decoder; safe. -/
  | badHalf
  /-- Case 5: SCH.SCHEDULE or SCH.INJECT with A above 9. Raised by the decoder; safe. -/
  | badEvent
  deriving DecidableEq, Repr

/-- Format N (R91): A and IMM unused. -/
def formatN (w : Beat) (i : Instr) : Except Illegal Instr :=
  if aField w = 0 ∧ immField w = 0 then .ok i else .error .unusedField

/-- Format A (R91): IMM unused. -/
def formatA (w : Beat) (k : BitVec 8 → Instr) : Except Illegal Instr :=
  if immField w = 0 then .ok (k (aField w)) else .error .unusedField

/-- Format I (R91): A unused. -/
def formatI (w : Beat) (k : Word → Instr) : Except Illegal Instr :=
  if aField w = 0 then .ok (k (immField w)) else .error .unusedField

/-- Format AI (R91): both fields used. -/
def formatAI (w : Beat) (k : BitVec 8 → Word → Instr) : Except Illegal Instr :=
  .ok (k (aField w) (immField w))

/-- The operand checks made at decode, after the format check (R95 cases 4 and 5). -/
def checkOperands : Instr → Except Illegal Instr
  | .fltSample a => if HalfOk a then .ok (.fltSample a) else .error .badHalf
  | .schSchedule a d => if EventOk a then .ok (.schSchedule a d) else .error .badEvent
  | .schInject a => if EventOk a then .ok (.schInject a) else .error .badEvent
  | i => .ok i

/-- The opcode map (R93): unit, function, format. -/
def decodeOperation (w : Beat) : Except Illegal Instr :=
  match (unitField w).toNat, (funcField w).toNat with
  | 0, 0 => formatN w .sysNop
  | 0, 1 => formatA w .sysRdreg
  | 0, 2 => formatAI w .sysWrreg
  | 0, 3 => formatN w .sysTelzero
  | 1, 0 => formatN w .pidStep
  | 2, 0 => formatA w .fltSample
  | 3, 0 => formatAI w .schSchedule
  | 3, 1 => formatA w .schInject
  | 3, 2 => formatN w .schFire
  | 4, 0 => formatAI w .phdInit
  | 4, 1 => formatN w .phdOff
  | 4, 2 => formatN w .phdArm
  | 4, 3 => formatA w .phdSetmode
  | 4, 4 => formatI w .phdSetduty
  | 4, 5 => formatA w .phdSetstate
  | 4, 6 => formatN w .phdNext
  | _, _ => .error .unknownOperation

/-- The decoder, total on every beat: the checks of R95 in the order R95 and R100 give them. -/
def decode (w : Beat) : Except Illegal Instr :=
  if rsvField w ≠ 0 then .error .reservedBits
  else (decodeOperation w).bind checkOperands

/-- A beat from its fields, RSV being 0 (R90). -/
def mkBeat (unit func : BitVec 4) (a : BitVec 8) (imm : Word) : Beat :=
  unit ++ func ++ a ++ 0#16 ++ imm

/-- The beat of an instruction, written from the table of R93. -/
def encode : Instr → Beat
  | .sysNop => mkBeat 0 0 0 0
  | .sysRdreg a => mkBeat 0 1 a 0
  | .sysWrreg a imm => mkBeat 0 2 a imm
  | .sysTelzero => mkBeat 0 3 0 0
  | .pidStep => mkBeat 1 0 0 0
  | .fltSample a => mkBeat 2 0 a 0
  | .schSchedule a imm => mkBeat 3 0 a imm
  | .schInject a => mkBeat 3 1 a 0
  | .schFire => mkBeat 3 2 0 0
  | .phdInit a imm => mkBeat 4 0 a imm
  | .phdOff => mkBeat 4 1 0 0
  | .phdArm => mkBeat 4 2 0 0
  | .phdSetmode a => mkBeat 4 3 a 0
  | .phdSetduty imm => mkBeat 4 4 0 imm
  | .phdSetstate a => mkBeat 4 5 a 0
  | .phdNext => mkBeat 4 6 0 0

/-- The mnemonic of an instruction's row (R93). -/
def mnemonic : Instr → String
  | .sysNop => "SYS.NOP"
  | .sysRdreg _ => "SYS.RDREG"
  | .sysWrreg _ _ => "SYS.WRREG"
  | .sysTelzero => "SYS.TELZERO"
  | .pidStep => "PID.STEP"
  | .fltSample _ => "FLT.SAMPLE"
  | .schSchedule _ _ => "SCH.SCHEDULE"
  | .schInject _ => "SCH.INJECT"
  | .schFire => "SCH.FIRE"
  | .phdInit _ _ => "PHD.INIT"
  | .phdOff => "PHD.OFF"
  | .phdArm => "PHD.ARM"
  | .phdSetmode _ => "PHD.SETMODE"
  | .phdSetduty _ => "PHD.SETDUTY"
  | .phdSetstate _ => "PHD.SETSTATE"
  | .phdNext => "PHD.NEXT"

/-- A row of the opcode table: a beat `w` selects it when `w AND mask = pattern` (R93). -/
structure OpcodeRow where
  mnemonic : String
  pattern : Beat
  mask : Beat
  deriving DecidableEq, Repr

/-- The beat selects the row (R93). -/
abbrev OpcodeRow.Selects (r : OpcodeRow) (w : Beat) : Prop := w &&& r.mask = r.pattern

/-- The sixteen rows of `spec/opcode_table.json` with their match and mask (R93). -/
def opcodeTable : List OpcodeRow :=
  [ ⟨"SYS.NOP", 0x0000000000000000, 0xFFFFFFFFFFFFFFFF⟩,
    ⟨"SYS.RDREG", 0x0100000000000000, 0xFF00FFFFFFFFFFFF⟩,
    ⟨"SYS.WRREG", 0x0200000000000000, 0xFF00FFFF00000000⟩,
    ⟨"SYS.TELZERO", 0x0300000000000000, 0xFFFFFFFFFFFFFFFF⟩,
    ⟨"PID.STEP", 0x1000000000000000, 0xFFFFFFFFFFFFFFFF⟩,
    ⟨"FLT.SAMPLE", 0x2000000000000000, 0xFFFEFFFFFFFFFFFF⟩,
    ⟨"SCH.SCHEDULE", 0x3000000000000000, 0xFFF0FFFF00000000⟩,
    ⟨"SCH.INJECT", 0x3100000000000000, 0xFFF0FFFFFFFFFFFF⟩,
    ⟨"SCH.FIRE", 0x3200000000000000, 0xFFFFFFFFFFFFFFFF⟩,
    ⟨"PHD.INIT", 0x4000000000000000, 0xFF00FFFF00000000⟩,
    ⟨"PHD.OFF", 0x4100000000000000, 0xFFFFFFFFFFFFFFFF⟩,
    ⟨"PHD.ARM", 0x4200000000000000, 0xFFFFFFFFFFFFFFFF⟩,
    ⟨"PHD.SETMODE", 0x4300000000000000, 0xFF00FFFFFFFFFFFF⟩,
    ⟨"PHD.SETDUTY", 0x4400000000000000, 0xFFFFFFFF00000000⟩,
    ⟨"PHD.SETSTATE", 0x4500000000000000, 0xFF00FFFFFFFFFFFF⟩,
    ⟨"PHD.NEXT", 0x4600000000000000, 0xFFFFFFFFFFFFFFFF⟩ ]

/-- The beat whose low `nbits` bits are those of `w` and whose other bits are 0. A beat is one whole
word and no byte order is observable (`20_memory.md` R77), so bit `k` of `w` is bit `k` of the beat. -/
def beatOfTableWord (nbits w : Nat) : Beat := BitVec.ofNat 64 (w % 2 ^ nbits)

/-- The instruction the decoder reads from the table's numbering of a beat's bits. -/
def decodeTableWord (nbits w : Nat) : Option Instr := (decode (beatOfTableWord nbits w)).toOption

/-- The index of a mapped register (`10_state.md` R21, R53). -/
def Reg.index : Reg → BitVec 8
  | .sysCnt => 0x00 | .sysStat => 0x01 | .sysGlitchCnt => 0x02
  | .phdCtrl => 0x10 | .phdDc => 0x11 | .phdGates => 0x12 | .phdPwmfreq => 0x13
  | .fltCtrl => 0x20 | .fltLen => 0x21 | .fltSum => 0x22 | .fltPtr => 0x23 | .fltNavg => 0x24
  | .fltScalar => 0x25 | .fltCurAcc => 0x26 | .fltBatAcc => 0x27
  | .telDuty => 0x30 | .telSpeed => 0x31 | .telSetpoint => 0x32 | .telCurrentMa => 0x33
  | .telBatteryMv => 0x34 | .telConsecDet => 0x35 | .telConsecMiss => 0x36 | .telErrAccum => 0x37
  | .telLocked => 0x38 | .telLastSwap => 0x39 | .telLastZcd => 0x3A
  | .schCtrl => 0x40 | .schDeadline => 0x41
  | .set n => BitVec.ofNat 8 (0x80 + n.val)

/-- The register an index maps to, `none` where it is unmapped (R21): operand A of SYS.RDREG and
SYS.WRREG. -/
def Reg.ofIndex (a : BitVec 8) : Option Reg :=
  if h : 0x80 ≤ a.toNat ∧ a.toNat < 0x80 + 27 then some (.set ⟨a.toNat - 0x80, by omega⟩)
  else
    match a.toNat with
    | 0x00 => some .sysCnt | 0x01 => some .sysStat | 0x02 => some .sysGlitchCnt
    | 0x10 => some .phdCtrl | 0x11 => some .phdDc | 0x12 => some .phdGates
    | 0x13 => some .phdPwmfreq
    | 0x20 => some .fltCtrl | 0x21 => some .fltLen | 0x22 => some .fltSum | 0x23 => some .fltPtr
    | 0x24 => some .fltNavg | 0x25 => some .fltScalar | 0x26 => some .fltCurAcc
    | 0x27 => some .fltBatAcc
    | 0x30 => some .telDuty | 0x31 => some .telSpeed | 0x32 => some .telSetpoint
    | 0x33 => some .telCurrentMa | 0x34 => some .telBatteryMv | 0x35 => some .telConsecDet
    | 0x36 => some .telConsecMiss | 0x37 => some .telErrAccum | 0x38 => some .telLocked
    | 0x39 => some .telLastSwap | 0x3A => some .telLastZcd
    | 0x40 => some .schCtrl | 0x41 => some .schDeadline
    | _ => none

/-- The pseudo-instruction `SET name, v` expands to `SYS.WRREG idx(name), u32(v)` (R98). -/
def pseudoSet (r : Reg) (v : Int) : Instr := .sysWrreg r.index (u32 v)

/-- The pseudo-instruction `GET name` expands to `SYS.RDREG idx(name)` (R98). -/
def pseudoGet (r : Reg) : Instr := .sysRdreg r.index

/-- The pseudo-instruction `ZERO` expands to `SYS.TELZERO` (R98). -/
def pseudoZero : Instr := .sysTelzero

/-- The operands of an instruction as text: those its format uses, A first, in decimal (R97). -/
def operandText : Instr → String
  | .sysRdreg a | .fltSample a | .schInject a | .phdSetmode a | .phdSetstate a =>
    " " ++ toString a.toNat
  | .sysWrreg a imm | .schSchedule a imm | .phdInit a imm =>
    " " ++ toString a.toNat ++ ", " ++ toString imm.toNat
  | .phdSetduty imm => " " ++ toString imm.toNat
  | .sysNop | .sysTelzero | .pidStep | .schFire | .phdOff | .phdArm | .phdNext => ""

/-- The textual form of a beat (R97): `UNIT.FUNC`, then the operands its format uses. -/
def assemblerText (i : Instr) : String := mnemonic i ++ operandText i

end Sys2Proof
end

