-- ==== Sys2Proof/Machine/State.lean ====
section
/-! DEFINITION. The state of the block, unit by unit (`10_state.md` R20 to R58), with its output ports
(`60_exceptions.md` R241, `30_encoding.md` R92), the sample buffer of its environment
(`20_memory.md` R72) and the script of moves to come; its fault and refusal reasons; its reset
value. -/

namespace Sys2Proof.Machine

open Sys2Proof

/-- The block has no fault: every agent step is total and every beat gets a response
(`45_host_sequencer_contract.md` R226, `93_implementation_defined.md` part 1: "every agent step is
total"). The error responses ILLEGAL, BADREG and FAILSAFE are next states. -/
inductive Fault where
  deriving DecidableEq, Repr

/-- Why a step gives no meaning. -/
inductive Refusal where
  /-- Raised by an arm of `exec` whose instruction has no meaning yet; no arm of this model is such
  an arm. Safe: nothing can be proved of what the instruction does. -/
  | notModelled (mnemonic : String)
  deriving DecidableEq, Repr

/-- A memory of elements: (address, element) pairs, addresses strictly rising, no pair equal to what
an unlisted address reads as. The smallest addressable unit of ADCBUF and WIN is one whole element
(`20_memory.md` R70, R77, R78). -/
abbrev Memory (α : Type) := List (Nat × α)

/-- System registers (`10_state.md` R24 to R26). -/
structure SysRegs where
  /-- `SYS.CNT`, 32 bits (R24). -/
  cnt : Word
  /-- `SYS.STAT` bit 0, PHD_FAILSAFE (R25). -/
  phdFailsafe : Bool
  /-- `SYS.STAT` bit 1, PID_BADMODE. -/
  pidBadmode : Bool
  /-- `SYS.STAT` bit 2, ADC_GLITCH. -/
  adcGlitch : Bool
  /-- `SYS.GLITCH_CNT`, 32 bits (R26). -/
  glitchCnt : Word
  deriving DecidableEq, Repr

/-- Phase driver registers (R27 to R30). -/
structure PhdRegs where
  /-- `PHD.ARMED`, bit 0 of PHD_CTRL (R27). -/
  armed : Bool
  /-- `PHD.STEP`, bits 3:1 of PHD_CTRL, 0 to 5. -/
  step : CommStep
  /-- `PHD.MODE`, bits 6:4 of PHD_CTRL, 0 to 5. -/
  mode : DriveMode
  /-- `PHD.DC`, 16 bits (R28). -/
  dc : BitVec 16
  /-- `PHD.GATES`, 12 bits (R29). -/
  gates : BitVec 12
  /-- `PHD.PWMFREQ`, 32 bits (R30). -/
  pwmFreq : Word
  deriving DecidableEq, Repr

/-- Filter registers (R31 to R38). -/
structure FltRegs where
  /-- `FLT.DET`, bit 0 of FLT_CTRL (R31). -/
  det : Bool
  /-- `FLT.BELOW`, bit 1 of FLT_CTRL. -/
  below : Bool
  /-- `FLT.LAST_HALF`, bits 3:2 of FLT_CTRL; `none` reads as 3. -/
  lastHalf : Option Half
  /-- `FLT.LAST_STEP`, bits 6:4 of FLT_CTRL; `none` reads as 7. -/
  lastStep : Option CommStep
  /-- `FLT.HF`, bit 8 of FLT_CTRL: half 0 holds a new batch. -/
  hf : Bool
  /-- `FLT.FF`, bit 9 of FLT_CTRL: half 1 holds a new batch. -/
  ff : Bool
  /-- `FLT.LEN`, 16 bits (R32). -/
  len : BitVec 16
  /-- `FLT.SUM`, 32 bits, signed (R33). -/
  sum : Word
  /-- `FLT.PTR`, 16 bits (R34). -/
  ptr : BitVec 16
  /-- `FLT.NAVG`, 16 bits (R35). -/
  navg : BitVec 16
  /-- `FLT.SCALAR`, 32 bits (R36). -/
  scalar : Word
  /-- `FLT.CUR_ACC`, 32 bits (R37). -/
  curAcc : Word
  /-- `FLT.BAT_ACC`, 32 bits (R38). -/
  batAcc : Word
  deriving DecidableEq, Repr

/-- Telemetry registers (R40 to R50); the views `TEL.CURRENT_MA` and `TEL.BATTERY_MV` store
nothing. -/
structure TelRegs where
  /-- `TEL.DUTY`, 16 bits (R40). -/
  duty : BitVec 16
  /-- `TEL.SPEED`, 32 bits (R41). -/
  speed : Word
  /-- `TEL.SETPOINT`, 32 bits, signed (R42). -/
  setpoint : Word
  /-- `TEL.CONSEC_DET`, 32 bits (R45). -/
  consecDet : Word
  /-- `TEL.CONSEC_MISS`, 32 bits (R46). -/
  consecMiss : Word
  /-- `TEL.ERR_ACCUM`, 32 bits, signed (R47). -/
  errAccum : Word
  /-- `TEL.LOCKED`, one bit (R48). -/
  locked : Bool
  /-- `TEL.LAST_SWAP`, 32 bits (R49). -/
  lastSwap : Word
  /-- `TEL.LAST_ZCD`, 32 bits (R50). -/
  lastZcd : Word
  deriving DecidableEq, Repr

/-- Scheduler registers (R51, R52): the single slot. -/
structure SchRegs where
  /-- `SCH.ARMED`, bit 0 of SCH_CTRL (R51). -/
  armed : Bool
  /-- `SCH.CMP_IF`, bit 1 of SCH_CTRL. -/
  cmpIf : Bool
  /-- `SCH.EVENT`, bits 7:4 of SCH_CTRL, 0 to 9. -/
  event : Event
  /-- `SCH.DEADLINE`, 32 bits (R52). -/
  deadline : Word
  deriving DecidableEq, Repr

/-- The response code of a beat (`30_encoding.md` R92). -/
inductive Resp where
  | ok | illegal | badReg | failSafe
  deriving DecidableEq, Repr

/-- The response to a beat: (RESP, RDATA) (R92). -/
structure Response where
  resp : Resp
  rdata : Word
  deriving DecidableEq, Repr

/-- The state of the block, its ports and its environment. -/
structure State where
  /-- System registers. -/
  sys : SysRegs
  /-- Phase driver registers. -/
  phd : PhdRegs
  /-- Filter registers. -/
  flt : FltRegs
  /-- Telemetry registers. -/
  tel : TelRegs
  /-- Scheduler registers. -/
  sch : SchRegs
  /-- The `SET` bank, 27 registers of 32 bits, number `n` at index `0x80 + n` (R53). -/
  settings : Vector Word 27
  /-- `WIN`, the window memory (R39): signed entries by slot; an unlisted slot reads 0. -/
  win : Memory Int
  /-- ADCBUF, the sample buffer of the environment (`20_memory.md` R72): 16-bit samples by element
  address; an unlisted element reads as the free initial contents. -/
  adcbuf : Memory (BitVec 16)
  /-- The event port's output sequence, oldest first: (event, timestamp) (R241). -/
  events : List (Event × Word)
  /-- The response port: the response to the last beat, `none` before the first (R92). -/
  response : Option Response
  /-- MODEL's own: the moves to come, next first; where it is empty the environment moves freely. -/
  script : List Move
  /-- MODEL's own: the number of steps taken, which indexes the free choices. -/
  draws : Nat
  /-- MODEL's own: the number of the step at which the last reset came, which indexes ADCBUF's free
  initial contents. -/
  adcEpoch : Nat
  deriving DecidableEq, Repr

/-- The machine right after reset: every register and field at the value of `10_state.md` R58
(`70_reset_and_hazards.md` R270), memory with nothing listed. -/
def State.reset : State where
  sys := { cnt := 0, phdFailsafe := false, pidBadmode := false, adcGlitch := false, glitchCnt := 0 }
  phd := { armed := false, step := 0, mode := .lowOnPwmHigh, dc := 0, gates := 0, pwmFreq := 0 }
  flt :=
    { det := false, below := false, lastHalf := none, lastStep := none, hf := false, ff := false,
      len := 1, sum := 0, ptr := 0, navg := 0, scalar := 25, curAcc := 0, batAcc := 0 }
  tel :=
    { duty := 0, speed := 0, setpoint := 0, consecDet := 0, consecMiss := 0, errAccum := 0,
      locked := false, lastSwap := 0, lastZcd := 0 }
  sch := { armed := false, cmpIf := false, event := .fault, deadline := 0 }
  settings := Vector.replicate 27 0
  win := []
  adcbuf := []
  events := []
  response := none
  script := []
  draws := 0
  adcEpoch := 0

end Sys2Proof.Machine
end

