-- ==== Sys2Proof/Machine/Operands.lean ====
section
/-! DEFINITION. What an operand or a field stands for: the codes of events, drive modes, gate states
and responses, the step tables, the settings by name, and the values rules read from state under a
name (`00_scope.md` R10 to R12, `44_phase_driver.md` R186 to R188, `60_exceptions.md` R246). -/

namespace Sys2Proof.Machine

open Sys2Proof

/-- `clamp(x, lo, hi) = max(lo, min(x, hi))` (R10). -/
def clampInt (x lo hi : Int) : Int := max lo (min x hi)

/-- `tdiv(a, b)`: division truncating toward zero (R11). -/
def tdiv (a b : Int) : Int := Int.tdiv a b

/-! ### Codes -/

/-- The code of an event (`60_exceptions.md` R246). -/
def eventCode : Event → BitVec 4
  | .fault => 0 | .arm => 1 | .start => 2 | .commutated => 3 | .zcd => 4
  | .closed => 5 | .overcurrent => 6 | .timeout => 7 | .stop => 8 | .auto => 9

/-- Field A as an event code: `none` above 9 (R246). -/
def eventOperand (a : BitVec 8) : Option Event :=
  match a.toNat with
  | 0 => some .fault | 1 => some .arm | 2 => some .start | 3 => some .commutated
  | 4 => some .zcd | 5 => some .closed | 6 => some .overcurrent | 7 => some .timeout
  | 8 => some .stop | 9 => some .auto
  | _ => none

/-- The code of a drive mode (`44_phase_driver.md` R187). -/
def modeCode : DriveMode → BitVec 3
  | .lowOnPwmHigh => 0 | .lowOnPwmLow => 1 | .lowOnPwmBoth => 2
  | .highOnPwmLow => 3 | .highOnPwmHigh => 4 | .highOnPwmBoth => 5

/-- Field A as a drive mode: `none` above 5. -/
def modeOperand (a : BitVec 8) : Option DriveMode :=
  match a.toNat with
  | 0 => some .lowOnPwmHigh | 1 => some .lowOnPwmLow | 2 => some .lowOnPwmBoth
  | 3 => some .highOnPwmLow | 4 => some .highOnPwmHigh | 5 => some .highOnPwmBoth
  | _ => none

/-- Field A as a commutation step: `none` above 5 (R195). -/
def stepOperand (a : BitVec 8) : Option CommStep :=
  if h : a.toNat < 6 then some ⟨a.toNat, h⟩ else none

/-- Field A as a half of ADCBUF: `none` above 1 (`42_bemf_filter.md` R140). -/
def halfOperand (a : BitVec 8) : Option Half :=
  if h : a.toNat < 2 then some ⟨a.toNat, h⟩ else none

/-- IMM as a duty count: `none` above `DC_ONE` (`44_phase_driver.md` R194). -/
def dutyOperand (c : Config) (imm : Word) : Option (BitVec 16) :=
  if imm.toNat ≤ c.dcOne then some (imm.setWidth 16) else none

/-- The code of a response (`30_encoding.md` R92). -/
def respCode : Resp → BitVec 2
  | .ok => 0 | .illegal => 1 | .badReg => 2 | .failSafe => 3

/-! ### The step tables (R186) -/

/-- `H(step)`, the high phase. -/
def highPhase : CommStep → Phase
  | 0 => .a | 1 => .a | 2 => .b | 3 => .b | 4 => .c | 5 => .c

/-- `L(step)`, the low phase. -/
def lowPhase : CommStep → Phase
  | 0 => .b | 1 => .c | 2 => .c | 3 => .a | 4 => .a | 5 => .b

/-- `F(step)`, the floating phase. -/
def floatPhase : CommStep → Phase
  | 0 => .c | 1 => .b | 2 => .a | 3 => .c | 4 => .b | 5 => .a

/-- The number of a phase (R186). -/
def phaseIndex : Phase → Nat
  | .a => 0 | .b => 1 | .c => 2

/-- The sample of a phase among the three of a frame. -/
def phaseSample : Phase → Nat → Nat → Nat → Nat
  | .a, x, _, _ => x
  | .b, _, y, _ => y
  | .c, _, _, z => z

/-- The sample of a channel: 0 = phase A, 1 = phase B, 2 = phase C, otherwise the motor current
(`20_memory.md` R72). -/
def frameChannel (fr : Frame) : Nat → BitVec 16
  | 0 => fr.a
  | 1 => fr.b
  | 2 => fr.c
  | _ => fr.i

/-! ### Gate states (R188) -/

/-- The state of one gate (R188). -/
inductive GateState where
  | off | on | pwm | pwmn
  deriving DecidableEq, Repr

/-- The code of a gate state (R188). -/
def gateCode : GateState → BitVec 12
  | .off => 0 | .on => 1 | .pwm => 2 | .pwmn => 3

/-- The high-side gate of phase `p` in state `g`: bits `4p+1 : 4p` (R188). -/
def hiGate (p : Phase) (g : GateState) : BitVec 12 := gateCode g <<< (4 * phaseIndex p)

/-- The low-side gate of phase `p` in state `g`: bits `4p+3 : 4p+2` (R188). -/
def loGate (p : Phase) (g : GateState) : BitVec 12 := gateCode g <<< (4 * phaseIndex p + 2)

/-- The row of the drive-mode table: which gates are not OFF, `h` the high phase and `l` the low
phase of the step (R187). -/
def gateRow (m : DriveMode) (h l : Phase) : BitVec 12 :=
  match m with
  | .lowOnPwmHigh => loGate l .on ||| hiGate h .pwm
  | .lowOnPwmLow => loGate l .on ||| loGate h .pwmn
  | .lowOnPwmBoth => loGate l .on ||| hiGate h .pwm ||| loGate h .pwmn
  | .highOnPwmLow => hiGate h .on ||| loGate l .pwm
  | .highOnPwmHigh => hiGate h .on ||| hiGate l .pwmn
  | .highOnPwmBoth => hiGate h .on ||| loGate l .pwm ||| hiGate l .pwmn

/-- What `push()` computes: all OFF while disarmed, else the row of the mode (R189). -/
def gatesOf (armed : Bool) (step : CommStep) (mode : DriveMode) : BitVec 12 :=
  if armed then gateRow mode (highPhase step) (lowPhase step) else 0

/-! ### Settings by name (`10_state.md` R53) -/

/-- `SET.RisingKp`, index 0x80. -/
def setRisingKp : Setting := 0
/-- `SET.FallingKp`, index 0x81. -/
def setFallingKp : Setting := 1
/-- `SET.Ki`, index 0x82. -/
def setKi : Setting := 2
/-- `SET.Kv`, index 0x83. -/
def setKv : Setting := 3
/-- `SET.Kff2`, index 0x84. -/
def setKff2 : Setting := 4
/-- `SET.ILim`, index 0x85. -/
def setILim : Setting := 5
/-- `SET.MaxError`, index 0x86. -/
def setMaxError : Setting := 6
/-- `SET.MaxDcChange`, index 0x87. -/
def setMaxDcChange : Setting := 7
/-- `SET.MinDc`, index 0x88. -/
def setMinDc : Setting := 8
/-- `SET.MaxDc`, index 0x89. -/
def setMaxDc : Setting := 9
/-- `SET.InitialStartupSpeed`, index 0x8A; stored for the host. -/
def setInitialStartupSpeed : Setting := 10
/-- `SET.FinalStartupSpeed`, index 0x8B; stored for the host. -/
def setFinalStartupSpeed : Setting := 11
/-- `SET.StartupCurrentTarget`, index 0x8C; stored for the host. -/
def setStartupCurrentTarget : Setting := 12
/-- `SET.CommutationPhase`, index 0x8D; stored for the host. -/
def setCommutationPhase : Setting := 13
/-- `SET.CommutationOffset`, index 0x8E; stored for the host. -/
def setCommutationOffset : Setting := 14
/-- `SET.PwmMin`, index 0x8F; stored for the host. -/
def setPwmMin : Setting := 15
/-- `SET.PwmMax`, index 0x90; stored for the host. -/
def setPwmMax : Setting := 16
/-- `SET.RpmMin`, index 0x91; stored for the host. -/
def setRpmMin : Setting := 17
/-- `SET.RpmMax`, index 0x92; stored for the host. -/
def setRpmMax : Setting := 18
/-- `SET.PwmFreq`, index 0x93; stored for the host. -/
def setPwmFreq : Setting := 19
/-- `SET.SoftCurrentLimit`, index 0x94. -/
def setSoftCurrentLimit : Setting := 20
/-- `SET.HardCurrentLimit`, index 0x95; stored for the host. -/
def setHardCurrentLimit : Setting := 21
/-- `SET.Braking`, index 0x96. -/
def setBraking : Setting := 22
/-- `SET.Direction`, index 0x97. -/
def setDirection : Setting := 23
/-- `SET.Mode`, index 0x98. -/
def setMode : Setting := 24
/-- `SET.BrakeOnErr`, index 0x99. -/
def setBrakeOnErr : Setting := 25
/-- `SET.BrakeOffErr`, index 0x9A. -/
def setBrakeOffErr : Setting := 26

/-- A settings register as rules read it: a signed integer (R53). -/
def setting (s : State) (n : Setting) : Int := s32 (s.settings.get n)

/-! ### Values rules read under a name -/

/-- `I_ma`, the filtered current, `TEL.CURRENT_MA` (`10_state.md` R43). -/
def currentMa (s : State) : Word := s.flt.curAcc >>> curShift

/-- `V_mv`, the filtered battery voltage, `TEL.BATTERY_MV` (R44). -/
def batteryMv (s : State) : Word := s.flt.batAcc >>> batShift

/-- `mdc = max(s32(SET.MaxDcChange), 0)` (`41_pid_control_law.md` R120). -/
def maxDcChange (s : State) : Int := max (setting s setMaxDcChange) 0

/-- The gate port: the pair (`PHD.GATES`, `PHD.DC`) the power stage sees (`44_phase_driver.md`
R188). -/
def gatePort (s : State) : BitVec 12 × BitVec 16 := (s.phd.gates, s.phd.dc)

end Sys2Proof.Machine
end

