-- ==== Sys2Proof/Machine/Flags.lean ====
section
/-! DEFINITION. Every flag the spec computes (`10_state.md` R55): the tests that set the filter's and the
control law's flags, the enabling conditions of the service agents, and the flag registers as they
read. -/

namespace Sys2Proof.Machine

open Sys2Proof

/-- `blanked()`: within the demagnetisation blanking window (`42_bemf_filter.md` R143). -/
def blanked (c : Config) (s : State) : Bool :=
  decide ((s.sys.cnt - s.tel.lastSwap).toNat < c.demagBlankingUs)

/-- `FLT.LAST_STEP != step` (R145). -/
def stepChanged (s : State) : Bool := decide (s.flt.lastStep ≠ some s.phd.step)

/-- The window is full: `FLT.NAVG >= FLT.LEN` (R149). -/
def windowFull (s : State) : Bool := decide (s.flt.len.toNat ≤ s.flt.navg.toNat)

/-- The full-window sum is below zero: sets `FLT.BELOW` (R149). -/
def sumBelow (s : State) : Bool := windowFull s && decide (s32 s.flt.sum < 0)

/-- The sum has crossed zero from the expected side: sets `FLT.DET` (R149). -/
def crossed (c : Config) (s : State) : Bool :=
  windowFull s && (s.flt.below || !c.zcEdge) && decide (0 < s32 s.flt.sum)

/-- The repeat-pointer check: the same half twice in a row (R141). -/
def repeated (s : State) (h : Half) : Bool := decide (s.flt.lastHalf = some h)

/-- The filtered current exceeds `SET.SoftCurrentLimit` (`41_pid_control_law.md` R122). -/
def overCurrent (s : State) : Bool :=
  decide (setting s setSoftCurrentLimit < ((currentMa s).toNat : Int))

/-- The lock gate, `TEL.CONSEC_DET >= 12` (R123). -/
def lockGate (s : State) : Bool := decide (lockCount ≤ s.tel.consecDet.toNat)

/-- The compare of the timer: the counter equals `SCH.DEADLINE` (`43_scheduler.md` R173). -/
def compareMatch (s : State) : Bool := decide (s.sys.cnt = s.sch.deadline)

/-- FLTSVC is enabled: a half of ADCBUF is flagged (`42_bemf_filter.md` R142, `60_exceptions.md`
R244). -/
def fltsvcEnabled (s : State) : Bool := s.flt.hf || s.flt.ff

/-- SCHSVC is enabled, and the compare interrupt requested: the level of `SCH.CMP_IF`
(`43_scheduler.md` R172, R174). -/
def schsvcEnabled (s : State) : Bool := s.sch.cmpIf

/-- `SYS_STAT` as it reads (`10_state.md` R25). -/
def sysStatWord (r : SysRegs) : Word :=
  0#29 ++ BitVec.ofBool r.adcGlitch ++ BitVec.ofBool r.pidBadmode ++ BitVec.ofBool r.phdFailsafe

/-- `PHD_CTRL` as it reads (R27). -/
def phdCtrlWord (r : PhdRegs) : Word :=
  0#25 ++ modeCode r.mode ++ BitVec.ofNat 3 r.step.val ++ BitVec.ofBool r.armed

/-- `FLT.LAST_HALF` as it reads: 3 where there is none yet (R31). -/
def lastHalfCode : Option Half → BitVec 2
  | none => 3
  | some h => BitVec.ofNat 2 h.val

/-- `FLT.LAST_STEP` as it reads: 7 where there is none yet (R31). -/
def lastStepCode : Option CommStep → BitVec 3
  | none => 7
  | some st => BitVec.ofNat 3 st.val

/-- `FLT_CTRL` as it reads (R31). -/
def fltCtrlWord (r : FltRegs) : Word :=
  0#22 ++ BitVec.ofBool r.ff ++ BitVec.ofBool r.hf ++ 0#1 ++ lastStepCode r.lastStep ++
    lastHalfCode r.lastHalf ++ BitVec.ofBool r.below ++ BitVec.ofBool r.det

/-- `SCH_CTRL` as it reads (R51). -/
def schCtrlWord (r : SchRegs) : Word :=
  0#24 ++ eventCode r.event ++ 0#2 ++ BitVec.ofBool r.cmpIf ++ BitVec.ofBool r.armed

end Sys2Proof.Machine
end

