-- ==== Sys2Proof/Machine/Ops.lean ====
section
/-! DEFINITION. The named operations over memory, registers and ports that the meanings share: memory
reads and writes in canonical form, the register map, responses and error responses, events, the
gate update `push()` and the fail-safe path. -/

namespace Sys2Proof.Machine

open Sys2Proof

/-! ### Memory -/

/-- Read the element at `a`; an unlisted address reads as `dflt a`. -/
def Memory.read {α : Type} (dflt : Nat → α) : Memory α → Nat → α
  | [], a => dflt a
  | (b, v) :: m, a => if a = b then v else Memory.read dflt m a

/-- Remove every entry of address `a`. -/
def Memory.erase {α : Type} : Memory α → Nat → Memory α
  | [], _ => []
  | (b, v) :: m, a => if a = b then Memory.erase m a else (b, v) :: Memory.erase m a

/-- Put `v` at address `a`, addresses kept rising. -/
def Memory.insert {α : Type} : Memory α → Nat → α → Memory α
  | [], a, v => [(a, v)]
  | (b, w) :: m, a, v =>
    if a < b then (a, v) :: (b, w) :: m
    else if a = b then (a, v) :: m
    else (b, w) :: Memory.insert m a v

/-- Write `v` at address `a`, keeping the canonical form: the value an unlisted address reads as is
not listed. -/
def Memory.write {α : Type} [DecidableEq α] (dflt : Nat → α) (m : Memory α) (a : Nat) (v : α) :
    Memory α :=
  if v = dflt a then Memory.erase m a else Memory.insert m a v

/-- The canonical form: addresses strictly rising, no entry equal to what an unlisted address reads
as. -/
abbrev Memory.wf {α : Type} (dflt : Nat → α) (m : Memory α) : Prop :=
  m.Pairwise (fun p q => p.1 < q.1) ∧ ∀ p ∈ m, p.2 ≠ dflt p.1

/-- What an unlisted slot of WIN reads as: its reset value (`10_state.md` R58). -/
def winDefault (_ : Nat) : Int := 0

/-- `WIN[k]` (R39). -/
def winAt (s : State) (k : Nat) : Int := Memory.read winDefault s.win k

/-- `WIN[k] <- v`. -/
def writeWin (k : Nat) (v : Int) (s : State) : State :=
  { s with win := Memory.write winDefault s.win k v }

/-- An ADC sample has `ADC_W` significant bits in its 16-bit element (`20_memory.md` R72). -/
def truncSample (c : Config) (v : BitVec 16) : BitVec 16 := BitVec.ofNat 16 (v.toNat % 2 ^ c.adcW)

/-- What an unlisted element of ADCBUF reads as: a free sample in range (R72, U1). -/
def adcDefault (c : Config) (epoch : Nat) (addr : Nat) : BitVec 16 :=
  truncSample c (c.adcInitial epoch addr)

/-- The element address of (half, frame, channel) in ADCBUF (R70). -/
def adcAddr (c : Config) (h : Half) (f ch : Nat) : Nat := (h.val * c.nf + f) * 4 + ch

/-- The sample at an element address of ADCBUF. -/
def adcAt (c : Config) (s : State) (addr : Nat) : BitVec 16 :=
  Memory.read (adcDefault c s.adcEpoch) s.adcbuf addr

/-- `MemRead(ADCBUF, (h, f, ch), 2)` (R73). -/
def adcRead (c : Config) (s : State) (h : Half) (f ch : Nat) : Nat :=
  (adcAt c s (adcAddr c h f ch)).toNat

/-- `MemWrite(ADCBUF, addr, 2, v)`: only the ADC agent's step writes ADCBUF (R74). -/
def adcWrite (c : Config) (s : State) (p : Nat × BitVec 16) : State :=
  { s with adcbuf := Memory.write (adcDefault c s.adcEpoch) s.adcbuf p.1 p.2 }

/-! ### Ports -/

/-- `emit(e)`: append the event with the counter's value to the event port (`60_exceptions.md`
R241). -/
def emit (e : Event) (s : State) : State := { s with events := s.events ++ [(e, s.sys.cnt)] }

/-- Return the response `(r, d)` to the beat's issuer (`30_encoding.md` R92). -/
def respond (r : Resp) (d : Word) (s : State) : State := { s with response := some ⟨r, d⟩ }

/-- `return (OK, 0)`. -/
def respondOk (s : State) : State := respond .ok 0 s

/-! ### Error responses (`60_exceptions.md` R240): the block's synchronous exceptions. There is no trap
entry and no return (R247, R248). -/

/-- `raise Illegal` and `raise BadReg`: the response, nothing else changed (`00_scope.md` R13). -/
def raiseError (r : Resp) (s : State) : State := respond r 0 s

/-- `push()`: recompute `PHD.GATES` (`44_phase_driver.md` R189). -/
def push (s : State) : State :=
  { s with phd := { s.phd with gates := gatesOf s.phd.armed s.phd.step s.phd.mode } }

/-- Disarm, zero duty, push: the body of `off()` (R191). -/
def driverOff (s : State) : State :=
  push { s with phd := { s.phd with armed := false, dc := 0 } }

/-- `failsafe()`: the sticky status bit, `off()`, and the response FAILSAFE (R197). -/
def failsafe (s : State) : State :=
  raiseError .failSafe (driverOff { s with sys := { s.sys with phdFailsafe := true } })

/-! ### The register map (`10_state.md` R21) -/

/-- A mapped register as it reads (R24 to R53). A read changes no state. -/
def readReg (s : State) : Reg → Word
  | .sysCnt => s.sys.cnt
  | .sysStat => sysStatWord s.sys
  | .sysGlitchCnt => s.sys.glitchCnt
  | .phdCtrl => phdCtrlWord s.phd
  | .phdDc => s.phd.dc.setWidth 32
  | .phdGates => s.phd.gates.setWidth 32
  | .phdPwmfreq => s.phd.pwmFreq
  | .fltCtrl => fltCtrlWord s.flt
  | .fltLen => s.flt.len.setWidth 32
  | .fltSum => s.flt.sum
  | .fltPtr => s.flt.ptr.setWidth 32
  | .fltNavg => s.flt.navg.setWidth 32
  | .fltScalar => s.flt.scalar
  | .fltCurAcc => s.flt.curAcc
  | .fltBatAcc => s.flt.batAcc
  | .telDuty => s.tel.duty.setWidth 32
  | .telSpeed => s.tel.speed
  | .telSetpoint => s.tel.setpoint
  | .telCurrentMa => currentMa s
  | .telBatteryMv => batteryMv s
  | .telConsecDet => s.tel.consecDet
  | .telConsecMiss => s.tel.consecMiss
  | .telErrAccum => s.tel.errAccum
  | .telLocked => (BitVec.ofBool s.tel.locked).setWidth 32
  | .telLastSwap => s.tel.lastSwap
  | .telLastZcd => s.tel.lastZcd
  | .schCtrl => schCtrlWord s.sch
  | .schDeadline => s.sch.deadline
  | .set n => s.settings.get n

/-- The register at an index as it reads; `none` where the index is unmapped (R111). -/
def readIndex (s : State) (a : BitVec 8) : Option Word := (Reg.ofIndex a).map (readReg s)

/-- SYS.WRREG's write: `none` for an RO register or a view (`40_system.md` R112). `TEL.DUTY` keeps 16
bits. -/
def writeReg (s : State) (r : Reg) (v : Word) : Option State :=
  match r with
  | .fltScalar => some { s with flt := { s.flt with scalar := v } }
  | .telDuty => some { s with tel := { s.tel with duty := v.setWidth 16 } }
  | .telSpeed => some { s with tel := { s.tel with speed := v } }
  | .telSetpoint => some { s with tel := { s.tel with setpoint := v } }
  | .telConsecDet => some { s with tel := { s.tel with consecDet := v } }
  | .telConsecMiss => some { s with tel := { s.tel with consecMiss := v } }
  | .telErrAccum => some { s with tel := { s.tel with errAccum := v } }
  | .set n => some { s with settings := s.settings.set n v }
  | _ => none

/-- A write by index: `none` where the index is unmapped, RO or a view (R112). -/
def writeIndex (s : State) (a : BitVec 8) (v : Word) : Option State :=
  (Reg.ofIndex a).bind fun r => writeReg s r v

/-! ### The move to come -/

/-- The next move and the state after it is taken from the script; where the script is empty the
environment's free choice (`00_scope.md` R6, U3). -/
def takeMove (c : Config) (s : State) : Move × State :=
  match s.script with
  | [] => (c.envMove s.draws, { s with draws := s.draws + 1 })
  | m :: rest => (m, { s with script := rest, draws := s.draws + 1 })

end Sys2Proof.Machine
end

