-- ==== Sys2Proof/Machine/Flt.lean ====
section
/-! DEFINITION. The FLT unit: FLT.SAMPLE, the BEMF sampler and adaptive filter (`42_bemf_filter.md` R140
to R153). -/

namespace Sys2Proof.Machine

open Sys2Proof

/-- `repeat_check(h)` (R141): the glitch of a missed buffer swap, the repeat pointer, the batch
flags. -/
def repeatCheck (h : Half) (s : State) : State :=
  { s with
    sys :=
      if repeated s h then
        { s.sys with
          adcGlitch := true
          glitchCnt := BitVec.ofNat 32 (min (s.sys.glitchCnt.toNat + 1) (2 ^ 32 - 1)) }
      else s.sys
    flt :=
      { s.flt with
        lastHalf := some h
        hf := false
        ff := if h = 1 then false else s.flt.ff } }

/-- `window_length()` (R146). -/
def windowLength (c : Config) (speed scalar : Nat) : Nat :=
  let bkt := min (speed >>> fltShift) (c.nb - 1)
  let scaled := c.fltTable bkt * scalar / 100
  max 1 (min scaled c.maxRunningFilter)

/-- `step_change(step)` (R145). -/
def stepChange (c : Config) (step : CommStep) (s : State) : State :=
  { s with
    flt :=
      { s.flt with
        sum := 0
        ptr := 0
        navg := 0
        det := false
        below := false
        lastStep := some step
        len := BitVec.ofNat 16 (windowLength c s.tel.speed.toNat s.flt.scalar.toNat) } }

/-- `current_iir(i)` (R144). -/
def currentIir (c : Config) (i : Nat) (s : State) : State :=
  let acc := s.flt.curAcc.toNat
  { s with flt := { s.flt with curAcc := BitVec.ofNat 32 (acc - acc >>> curShift + c.curcal i) } }

/-- `diff(step, a, b, c)` (R147): the floating phase against the mean of the three, the sign by the
step's polarity and the direction. -/
def phaseDiff (c : Config) (s : State) (step : CommStep) (va vb vc : Nat) : Int :=
  let ref : Int := ((va + vb + vc) / 3 : Nat)
  let und : Int := (phaseSample (floatPhase step) va vb vc : Nat)
  let sign := c.pol step * (if setting s setDirection = 1 then -1 else 1)
  sign * (und - ref)

/-- `boxcar(d)` (R148): evict the oldest entry of a full window, store, add, advance. -/
def boxcar (d : Int) (s : State) : State :=
  let slot := s.flt.ptr.toNat
  let kept := if windowFull s then s32 s.flt.sum - winAt s slot else s32 s.flt.sum
  let s := writeWin slot d s
  { s with
    flt :=
      { s.flt with
        sum := u32 (kept + d)
        ptr := BitVec.ofNat 16 ((slot + 1) % s.flt.len.toNat)
        navg := BitVec.ofNat 16 (min (s.flt.navg.toNat + 1) 65535) } }

/-- The first half of `zero_cross()`: a full window with a negative sum sets `FLT.BELOW` (R149). -/
def noteBelow (s : State) : State :=
  { s with flt := { s.flt with below := s.flt.below || sumBelow s } }

/-- `zero_cross()` (R149): the crossing sets `FLT.DET`, latches `TEL.LAST_ZCD` and emits ZCD. -/
def zeroCross (c : Config) (s : State) : State :=
  let s := noteBelow s
  if crossed c s then
    emit .zcd
      { s with
        flt := { s.flt with det := true }
        tel := { s.tel with lastZcd := s.sys.cnt } }
  else s

/-- `battery(step, a, b, c)` (R151), while `TEL.DUTY > BATT_DC_MIN`. -/
def battery (c : Config) (step : CommStep) (va vb vc : Nat) (s : State) : State :=
  if c.battDcMin < s.tel.duty.toNat then
    let acc := s.flt.batAcc.toNat
    let x := c.battEst (phaseSample (highPhase step) va vb vc) s.tel.duty.toNat
    { s with flt := { s.flt with batAcc := BitVec.ofNat 32 (acc - acc >>> batShift + x) } }
  else s

/-- One frame of a batch (R140): steps 2 and 4 to 7; steps 4 to 6 only while `FLT.DET = 0` (R150). -/
def filterFrame (c : Config) (step : CommStep) (va vb vc i : Nat) (s : State) : State :=
  let s := currentIir c i s
  let s := if s.flt.det then s else zeroCross c (boxcar (phaseDiff c s step va vb vc) s)
  battery c step va vb vc s

/-- Frame `f` of half `h`, read from ADCBUF and processed (R140). -/
def sampleFrame (c : Config) (h : Half) (step : CommStep) (s : State) (f : Nat) : State :=
  filterFrame c step (adcRead c s h f 0) (adcRead c s h f 1) (adcRead c s h f 2)
    (adcRead c s h f 3) s

/-- The body of FLT.SAMPLE past the blanking test (R140). -/
def sampleBatch (c : Config) (h : Half) (s : State) : State :=
  let step := s.phd.step
  (List.range c.nf).foldl (sampleFrame c h step) (if stepChanged s then stepChange c step s else s)

/-- FLT.SAMPLE (R140), by a beat or by FLTSVC, without its response. -/
def fltSample (c : Config) (h : Half) (s : State) : State :=
  let s := repeatCheck h s
  if blanked c s then s else sampleBatch c h s

/-- FLT.SAMPLE (R140): ILLEGAL for a half above 1 (`30_encoding.md` R95 case 4). -/
def execFltSample (a : BitVec 8) (s : State) : Host.Outcome State Fault Refusal :=
  .next
    (match halfOperand a with
    | some h => respondOk (fltSample Config.impl h s)
    | none => raiseError .illegal s)

end Sys2Proof.Machine
end

