-- ==== Sys2Proof/Machine/Sch.lean ====
section
/-! DEFINITION. The SCH unit: SCH.SCHEDULE, SCH.INJECT, SCH.FIRE (`43_scheduler.md` R170, R171, R176). -/

namespace Sys2Proof.Machine

open Sys2Proof

/-- The atomic replacement of the single slot (R170, `20_memory.md` R83). -/
def schedule (e : Event) (delay : Word) (s : State) : State :=
  { s with sch := { armed := true, cmpIf := false, event := e, deadline := s.sys.cnt + delay } }

/-- SCH.SCHEDULE (R170): ILLEGAL for an event code above 9. -/
def execSchSchedule (a : BitVec 8) (delay : Word) (s : State) : Host.Outcome State Fault Refusal :=
  .next
    (match eventOperand a with
    | some e => respondOk (schedule e delay s)
    | none => raiseError .illegal s)

/-- SCH.INJECT (R171): ILLEGAL for an event code above 9. -/
def execSchInject (a : BitVec 8) (s : State) : Host.Outcome State Fault Refusal :=
  .next
    (match eventOperand a with
    | some e => respondOk (emit e s)
    | none => raiseError .illegal s)

/-- SCH.FIRE (R176), by a beat, SCHSVC or TMO, without its response: test, clear and emit. -/
def schFire (s : State) : State :=
  if s.sch.armed then emit s.sch.event { s with sch := { s.sch with armed := false } } else s

/-- SCH.FIRE (R176). -/
def execSchFire (s : State) : Host.Outcome State Fault Refusal := .next (respondOk (schFire s))

end Sys2Proof.Machine
end

