-- ==== Sys2Proof/Machine/Agents.lean ====
section
/-! DEFINITION. The steps of the agents other than the host, and the reset input (`00_scope.md` R6,
`30_encoding.md` R99, `70_reset_and_hazards.md` R270). The response of an operation a hardware
trigger starts is discarded. A move of a service agent that is not enabled does nothing. -/

namespace Sys2Proof.Machine

open Sys2Proof

/-- Set the pending bit where the counter equals the deadline (`43_scheduler.md` R173). -/
def compareStep (s : State) : State :=
  { s with sch := { s.sch with cmpIf := s.sch.cmpIf || compareMatch s } }

/-- CLOCK: advance the counter, then compare (R173). -/
def tick (s : State) : State := compareStep { s with sys := { s.sys with cnt := s.sys.cnt + 1 } }

/-- The sample of (frame, channel) an ADC step delivers: the move's, or a free one where the move
does not give the frame (`20_memory.md` R74, U2). -/
def adcSampleOf (c : Config) (s : State) (frames : List Frame) (f ch : Nat) : BitVec 16 :=
  truncSample c
    (match frames[f]? with
    | some fr => frameChannel fr ch
    | none => c.adcSample s.draws f ch)

/-- The elements an ADC step writes, in order (R74). -/
def adcWrites (c : Config) (s : State) (h : Half) (frames : List Frame) : List (Nat × BitVec 16) :=
  (List.range c.nf).flatMap fun f =>
    (List.range 4).map fun ch => (adcAddr c h f ch, adcSampleOf c s frames f ch)

/-- Set the flag of half `h`: "half-full" for half 0, "full" for half 1 (R74). -/
def setBatchFlag (h : Half) (s : State) : State :=
  if h = 0 then { s with flt := { s.flt with hf := true } }
  else { s with flt := { s.flt with ff := true } }

/-- ADC: write one half of ADCBUF and set its flag (R74). -/
def adcFill (c : Config) (h : Half) (frames : List Frame) (s : State) : State :=
  setBatchFlag h ((adcWrites c s h frames).foldl (adcWrite c) s)

/-- FLTSVC: FLT.SAMPLE on the flagged half, the full flag first (`42_bemf_filter.md` R142). -/
def fltsvc (c : Config) (s : State) : State :=
  if s.flt.ff then fltSample c 1 s
  else if s.flt.hf then fltSample c 0 s
  else s

/-- SCHSVC: clear the pending bit, then SCH.FIRE (`43_scheduler.md` R174). -/
def schsvc (s : State) : State :=
  if schsvcEnabled s then schFire { s with sch := { s.sch with cmpIf := false } } else s

/-- TMO: SCH.FIRE, whether or not the deadline has come (R175). -/
def tmo (s : State) : State := schFire s

/-- The reset input (R270): every register at its reset value, the event port empty, ADCBUF's
contents free again; nothing else changes: a response already returned stands
(`93_implementation_defined.md` U18), the script of the environment goes on. -/
def resetBlock (s : State) : State :=
  { State.reset with
    response := s.response
    script := s.script
    draws := s.draws
    adcEpoch := s.draws }

/-- The response to an illegal beat: no state changed, no event (`30_encoding.md` R95). -/
def illegalBeat (s : State) : State := raiseError .illegal s

end Sys2Proof.Machine
end

