-- ==== Sys2Proof/Machine/Phd.lean ====
section
/-! DEFINITION. The PHD unit: PHD.INIT, PHD.OFF, PHD.ARM, PHD.SETMODE, PHD.SETDUTY, PHD.SETSTATE, PHD.NEXT
(`44_phase_driver.md` R190 to R197). -/

namespace Sys2Proof.Machine

open Sys2Proof

/-- PHD.INIT (R190): FAILSAFE for a mode above 5. -/
def execPhdInit (a : BitVec 8) (cfg : Word) (s : State) : Host.Outcome State Fault Refusal :=
  .next
    (match modeOperand a with
    | some m =>
      respondOk { s with phd := { armed := false, step := 0, mode := m, dc := 0, gates := 0, pwmFreq := cfg } }
    | none => failsafe s)

/-- PHD.OFF (R191). -/
def execPhdOff (s : State) : Host.Outcome State Fault Refusal := .next (respondOk (driverOff s))

/-- PHD.ARM (R192). -/
def execPhdArm (s : State) : Host.Outcome State Fault Refusal :=
  .next (respondOk (push { s with phd := { s.phd with armed := true } }))

/-- PHD.SETMODE (R193): FAILSAFE for a mode above 5. -/
def execPhdSetmode (a : BitVec 8) (s : State) : Host.Outcome State Fault Refusal :=
  .next
    (match modeOperand a with
    | some m => respondOk (push { s with phd := { s.phd with mode := m } })
    | none => failsafe s)

/-- PHD.SETDUTY (R194): FAILSAFE for a duty above `DC_ONE`. -/
def execPhdSetduty (imm : Word) (s : State) : Host.Outcome State Fault Refusal :=
  .next
    (match dutyOperand Config.impl imm with
    | some d => respondOk (push { s with phd := { s.phd with dc := d } })
    | none => failsafe s)

/-- Commutate to step `st`: latch `TEL.LAST_SWAP` and push (R195, R196). -/
def commutate (st : CommStep) (s : State) : State :=
  push { s with phd := { s.phd with step := st }, tel := { s.tel with lastSwap := s.sys.cnt } }

/-- PHD.SETSTATE (R195): FAILSAFE for a step above 5. -/
def execPhdSetstate (a : BitVec 8) (s : State) : Host.Outcome State Fault Refusal :=
  .next
    (match stepOperand a with
    | some st => respondOk (commutate st s)
    | none => failsafe s)

/-- `(step + 1) mod 6`, the fixed six-step cycle (R196). -/
def nextStep (st : CommStep) : CommStep := ⟨(st.val + 1) % 6, Nat.mod_lt _ (by decide)⟩

/-- PHD.NEXT (R196). -/
def execPhdNext (s : State) : Host.Outcome State Fault Refusal :=
  .next (respondOk (commutate (nextStep s.phd.step) s))

end Sys2Proof.Machine
end

