-- ==== Sys2Proof/Machine/Pid.lean ====
section
/-! DEFINITION. The PID unit: PID.STEP, the control law (`41_pid_control_law.md` R120 to R133). -/

namespace Sys2Proof.Machine

open Sys2Proof

/-- `clampdc(x)`, the duty clamp (R126). -/
def clampDc (c : Config) (s : State) (x : Int) : Int :=
  max 0 (min (max x (setting s setMinDc)) (min (setting s setMaxDc) c.hwMaxDc))

/-- `TEL.DUTY <- clampdc(x)`; the value is in `0..HW_MAX_DC` and fits 16 bits (R126). -/
def setTelDuty (c : Config) (x : Int) (s : State) : State :=
  { s with tel := { s.tel with duty := BitVec.ofInt 16 (clampDc c s x) } }

/-- `forward()`: hand the duty to the phase driver (R131). -/
def forward (s : State) : State := push { s with phd := { s.phd with dc := s.tel.duty } }

/-- The closed-mode error, clamped from above only (R125). -/
def pidError (s : State) : Int :=
  min (s32 s.tel.setpoint - (s.tel.speed.toNat : Int)) (setting s setMaxError)

/-- `integrate(e)` (R127): no integration where `SET.Ki` is not positive. -/
def integrate (e : Int) (s : State) : State :=
  if 0 < setting s setKi then
    let lim := max (tdiv (setting s setILim) (setting s setKi)) 0
    { s with tel := { s.tel with errAccum := u32 (clampInt (s32 s.tel.errAccum + e) (-lim) lim) } }
  else s

/-- `brake(e)` (R129): the hysteresis switch of the braking gate mode. -/
def brake (e : Int) (s : State) : State :=
  if setting s setBraking = 1 then
    if e < -setting s setBrakeOnErr then
      push { s with phd := { s.phd with mode := .lowOnPwmBoth } }
    else if e > -setting s setBrakeOffErr then
      push { s with phd := { s.phd with mode := .lowOnPwmHigh } }
    else s
  else s

/-- The proportional gain: `SET.RisingKp` where the error is not negative (R125). -/
def pidKp (e : Int) (s : State) : Int :=
  if 0 ≤ e then setting s setRisingKp else setting s setFallingKp

/-- `ff + fb` in PID units, from the new accumulator (R125, R128). -/
def pidOutput (c : Config) (e : Int) (s : State) : Int :=
  c.ff s.tel.speed.toNat (setting s setKv) (setting s setKff2) (batteryMv s).toNat +
    (pidKp e s * e + setting s setKi * s32 s.tel.errAccum)

/-- Convert to duty counts, slew-limit, clamp and store (R125). -/
def slewTo (c : Config) (out : Int) (s : State) : State :=
  let duty : Int := s.tel.duty.toNat
  let target := tdiv (out * c.dcOne) c.pidScale
  let delta := clampInt (target - duty) (-maxDcChange s) (maxDcChange s)
  setTelDuty c (duty + delta) s

/-- `closed_mode()` (R125). -/
def closedMode (c : Config) (s : State) : State :=
  let e := pidError s
  let s := brake e (integrate e s)
  slewTo c (pidOutput c e s) s

/-- Case 5: an unrecognised mode sets the status bit and emits FAULT (R130). -/
def badMode (s : State) : State :=
  emit .fault { s with sys := { s.sys with pidBadmode := true } }

/-- Cases 3 to 5, past the lock gate (R120). -/
def controlMode (c : Config) (s : State) : State :=
  if setting s setMode = 0 then forward (setTelDuty c (s32 s.tel.setpoint) s)
  else if setting s setMode = 1 then forward (closedMode c s)
  else badMode s

/-- Case 2: write `TEL.LOCKED` with the gate's value; the rest only if the gate is true (R123). -/
def lockedMode (c : Config) (s : State) : State :=
  let s := { s with tel := { s.tel with locked := lockGate s } }
  if lockGate s then controlMode c s else s

/-- The five cases in priority order (R120); case 1 is current limiting (R122). -/
def pidStep (c : Config) (s : State) : State :=
  if overCurrent s then forward (setTelDuty c ((s.tel.duty.toNat : Int) - maxDcChange s) s)
  else lockedMode c s

/-- PID.STEP (R120): the response is always OK. -/
def execPidStep (s : State) : Host.Outcome State Fault Refusal :=
  .next (respondOk (pidStep Config.impl s))

end Sys2Proof.Machine
end

