-- ==== Sys2Proof/Machine/Sys.lean ====
section
/-! DEFINITION. The SYS unit: SYS.NOP, SYS.RDREG, SYS.WRREG, SYS.TELZERO (`40_system.md` R110 to
R113). -/

namespace Sys2Proof.Machine

open Sys2Proof

/-- SYS.NOP (R110). -/
def execSysNop (s : State) : Host.Outcome State Fault Refusal := .next (respondOk s)

/-- SYS.RDREG (R111): BADREG for an unmapped index. -/
def execSysRdreg (a : BitVec 8) (s : State) : Host.Outcome State Fault Refusal :=
  .next
    (match readIndex s a with
    | some v => respond .ok v s
    | none => raiseError .badReg s)

/-- SYS.WRREG (R112): BADREG, and nothing written, for an unmapped, RO or view index. -/
def execSysWrreg (a : BitVec 8) (imm : Word) (s : State) : Host.Outcome State Fault Refusal :=
  .next
    (match writeIndex s a imm with
    | some t => respondOk t
    | none => raiseError .badReg s)

/-- Zero the telemetry group (R113, `10_state.md` R54). -/
def telZero (s : State) : State :=
  { s with
    tel :=
      { duty := 0, speed := 0, setpoint := 0, consecDet := 0, consecMiss := 0, errAccum := 0,
        locked := false, lastSwap := 0, lastZcd := 0 }
    flt := { s.flt with curAcc := 0, batAcc := 0 }
    sch := { armed := false, cmpIf := false, event := .fault, deadline := 0 } }

/-- SYS.TELZERO (R113). -/
def execSysTelzero (s : State) : Host.Outcome State Fault Refusal := .next (respondOk (telZero s))

end Sys2Proof.Machine
end

