-- ==== Sys2Proof/Machine/Dispatch.lean ====
section
/-! DEFINITION. One arm per operation of the block: the meaning of each (`30_encoding.md` R93). -/

namespace Sys2Proof.Machine

open Sys2Proof

def exec (i : Instr) (s : State) : Host.Outcome State Fault Refusal :=
  match i with
  | .sysNop => Sys2Proof.Machine.execSysNop s
  | .sysRdreg a => Sys2Proof.Machine.execSysRdreg a s
  | .sysWrreg a imm => Sys2Proof.Machine.execSysWrreg a imm s
  | .sysTelzero => Sys2Proof.Machine.execSysTelzero s
  | .pidStep => Sys2Proof.Machine.execPidStep s
  | .fltSample a => Sys2Proof.Machine.execFltSample a s
  | .schSchedule a imm => Sys2Proof.Machine.execSchSchedule a imm s
  | .schInject a => Sys2Proof.Machine.execSchInject a s
  | .schFire => Sys2Proof.Machine.execSchFire s
  | .phdInit a imm => Sys2Proof.Machine.execPhdInit a imm s
  | .phdOff => Sys2Proof.Machine.execPhdOff s
  | .phdArm => Sys2Proof.Machine.execPhdArm s
  | .phdSetmode a => Sys2Proof.Machine.execPhdSetmode a s
  | .phdSetduty imm => Sys2Proof.Machine.execPhdSetduty imm s
  | .phdSetstate a => Sys2Proof.Machine.execPhdSetstate a s
  | .phdNext => Sys2Proof.Machine.execPhdNext s

end Sys2Proof.Machine
end

