-- ==== Sys2Proof/Machine/Step.lean ====
section
/-! DEFINITION. One step of the machine: one whole step of one agent, or the reset input (`00_scope.md`
R6), and the placing of a beat as the next move. -/

namespace Sys2Proof.Machine

open Sys2Proof

/-- One move: the host's beat is decoded and performed, or answered ILLEGAL; the other agents and
the reset input always answer a next state. -/
def perform (m : Move) (s : State) : Host.Outcome State Fault Refusal :=
  match m with
  | .beat w =>
    match decode w with
    | .ok i => exec i s
    | .error _ => .next (illegalBeat s)
  | .tick => .next (tick s)
  | .adc h frames => .next (adcFill Config.impl h frames s)
  | .fltsvc => .next (fltsvc Config.impl s)
  | .schsvc => .next (schsvc s)
  | .tmo => .next (tmo s)
  | .reset => .next (resetBlock s)

/-- One step: take the move to come and perform it. -/
def step (s : State) : Host.Outcome State Fault Refusal :=
  perform (takeMove Config.impl s).1 (takeMove Config.impl s).2

/-- `s` with the beat of `nbits` bits placed as the very next move: the host presents it, and the
block decodes and performs it at the next step. The block holds no program (`10_state.md` R23). -/
def State.withFetchWord (s : State) (nbits w : Nat) : State :=
  { s with script := .beat (beatOfTableWord nbits w) :: s.script }

end Sys2Proof.Machine
end

