-- ==== Sys2Proof/Safety.lean ====
section
/-! DEFINITION. The terms claims are stated in: what a step leaves unchanged, the invariants of
`10_state.md` R57, the gate safety of `44_phase_driver.md` R198, and runs of several moves. -/

namespace Sys2Proof.Machine

open Sys2Proof

/-! ### Frames -/

/-- Every register reads as before, but for the listed indices (`10_state.md` R21). -/
def RegsKept (except : List Nat) (s t : State) : Prop :=
  ∀ a : BitVec 8, a.toNat ∉ except → readIndex t a = readIndex s a

/-- Every slot of WIN reads as before. -/
def WinKept (s t : State) : Prop := ∀ k, winAt t k = winAt s k

/-- Every element of ADCBUF reads as before. -/
def AdcKept (s t : State) : Prop := ∀ n, adcAt Config.impl t n = adcAt Config.impl s n

/-- The moves to come and the model's own counters are as before. -/
def ScriptKept (s t : State) : Prop :=
  t.script = s.script ∧ t.draws = s.draws ∧ t.adcEpoch = s.adcEpoch

/-- Registers but for the listed ones, both memories and the moves to come are as before. -/
def KeptBut (except : List Nat) (s t : State) : Prop :=
  RegsKept except s t ∧ WinKept s t ∧ AdcKept s t ∧ ScriptKept s t

/-- The response port shows `(r, d)` (`30_encoding.md` R92). -/
def Answers (t : State) (r : Resp) (d : Word) : Prop := t.response = some ⟨r, d⟩

/-- The gates are what `push()` computes from the other driver registers (`44_phase_driver.md`
R189). -/
def GatesPushed (s : State) : Prop := s.phd.gates = gatesOf s.phd.armed s.phd.step s.phd.mode

/-- What `failsafe()` leaves (R197): the driver off, the sticky bit set, the step and the mode kept,
the other status bits kept, no event, the response FAILSAFE. -/
def FailsSafe (s t : State) : Prop :=
  Answers t .failSafe 0 ∧ t.sys.phdFailsafe = true ∧ t.sys.pidBadmode = s.sys.pidBadmode ∧
    t.sys.adcGlitch = s.sys.adcGlitch ∧ t.phd.armed = false ∧ t.phd.dc = 0 ∧ t.phd.gates = 0 ∧
    t.phd.step = s.phd.step ∧ t.phd.mode = s.phd.mode ∧ t.events = s.events ∧
    KeptBut [0x01, 0x10, 0x11, 0x12] s t

/-! ### Gate safety (R198) -/

/-- The state code of phase `p`'s high-side gate (R188). -/
def hiState (g : BitVec 12) (p : Phase) : BitVec 2 := g.extractLsb' (4 * phaseIndex p) 2

/-- The state code of phase `p`'s low-side gate (R188). -/
def loState (g : BitVec 12) (p : Phase) : BitVec 2 := g.extractLsb' (4 * phaseIndex p + 2) 2

/-- No supply short (R198 v): two gates of one phase driven together are PWM with PWMN. -/
def NoShort (g : BitVec 12) : Prop :=
  ∀ p, hiState g p ≠ 0 → loState g p ≠ 0 →
    (hiState g p = 2 ∧ loState g p = 3) ∨ (hiState g p = 3 ∧ loState g p = 2)

/-- The gates are safe: disarmed means all OFF, the floating phase is never driven, no short
(R198 iii to v). -/
def GatesSafe (s : State) : Prop :=
  (s.phd.armed = false → s.phd.gates = 0) ∧
    hiState s.phd.gates (floatPhase s.phd.step) = 0 ∧
    loState s.phd.gates (floatPhase s.phd.step) = 0 ∧ NoShort s.phd.gates

/-! ### Invariants (`10_state.md` R57) -/

/-- What holds of every reachable state: R57 (ii) to (iv), the ranges of R37 to R39, the sample
range of `20_memory.md` R73, and the canonical form of both memories. R57 (i) and (vi) hold by the
types of `PHD.STEP`, `PHD.MODE` and `SCH.EVENT`. -/
structure Inv (s : State) : Prop where
  /-- R57 (ii) -/
  duty_le : s.phd.dc.toNat ≤ Config.impl.dcOne
  /-- R57 (iii), R198 (ii) -/
  gates_pushed : GatesPushed s
  /-- R57 (iv) -/
  len_range : 1 ≤ s.flt.len.toNat ∧ s.flt.len.toNat ≤ Config.impl.maxRunningFilter
  /-- R57 (iv) -/
  ptr_lt : s.flt.ptr.toNat < s.flt.len.toNat
  /-- R37 -/
  curAcc_lt : s.flt.curAcc.toNat < 2 ^ 31
  /-- R38 -/
  batAcc_le : s.flt.batAcc.toNat ≤ 2 ^ 30
  /-- R39 -/
  win_range : ∀ k, (winAt s k).natAbs ≤ 2 ^ Config.impl.adcW - 1
  /-- R73 -/
  adc_range : ∀ n, (adcAt Config.impl s n).toNat < 2 ^ Config.impl.adcW
  win_wf : Memory.wf winDefault s.win
  adc_wf : Memory.wf (adcDefault Config.impl s.adcEpoch) s.adcbuf

/-- The sum of the `n` most recently written entries of the window: the slot before `FLT.PTR`, and
backwards round the ring of `FLT.LEN` slots. -/
def recentSum (s : State) (n : Nat) : Int :=
  ((List.range n).map fun j =>
    winAt s ((s.flt.ptr.toNat + s.flt.len.toNat - 1 - j) % s.flt.len.toNat)).sum

/-- R57 (v) with what it rests on: while the window fills, `FLT.PTR` counts the frames; `FLT.SUM` is
the sum of the `min(FLT.NAVG, FLT.LEN)` most recent entries. -/
structure FilterInv (s : State) : Prop where
  inv : Inv s
  ptr_of_filling : s.flt.navg.toNat < s.flt.len.toNat → s.flt.ptr = s.flt.navg
  sum_eq : s32 s.flt.sum = recentSum s (min s.flt.navg.toNat s.flt.len.toNat)

/-! ### Runs -/

/-- Several moves one after another, stopping at the first that gives no next state. -/
def performAll : List Move → State → Host.Outcome State Fault Refusal
  | [], s => .next s
  | m :: ms, s =>
    match perform m s with
    | .next t => performAll ms t
    | .fault r => .fault r
    | .refused r => .refused r

/-- A move of an agent other than the host: no beat and no reset (`00_scope.md` R6). -/
def agentMove : Move → Bool
  | .beat _ => false
  | .reset => false
  | .tick => true
  | .adc _ _ => true
  | .fltsvc => true
  | .schsvc => true
  | .tmo => true

/-- A move of CLOCK, ADC or FLTSVC: one that neither fires nor replaces the scheduled event. -/
def timeMove : Move → Bool
  | .tick => true
  | .adc _ _ => true
  | .fltsvc => true
  | .schsvc => false
  | .tmo => false
  | .beat _ => false
  | .reset => false

end Sys2Proof.Machine

/-! ### The spec's own formulas, written apart from the model's functions, for claims to compare -/

namespace Sys2Proof.Claim

open Sys2Proof Sys2Proof.Machine

/-- The (UNIT, FUNC) pairs of R93 whose format does not use A: formats N and I. -/
def unusedA : List (Nat × Nat) :=
  [(0, 0), (0, 3), (1, 0), (3, 2), (4, 1), (4, 2), (4, 4), (4, 6)]

/-- The (UNIT, FUNC) pairs of R93 whose format does not use IMM: formats N and A. -/
def unusedImm : List (Nat × Nat) :=
  [(0, 0), (0, 1), (0, 3), (1, 0), (2, 0), (3, 1), (3, 2), (4, 1), (4, 2), (4, 3), (4, 5), (4, 6)]

/-- The sixteen (UNIT, FUNC) pairs of R93. -/
def operationPairs : List (Nat × Nat) :=
  [(0, 0), (0, 1), (0, 2), (0, 3), (1, 0), (2, 0), (3, 0), (3, 1), (3, 2), (4, 0), (4, 1), (4, 2),
    (4, 3), (4, 4), (4, 5), (4, 6)]

/-- The five cases of R95 in the order they are tested, as tests on the bits of the beat. -/
def illegalCase (w : Beat) : Option Illegal :=
  let pair := ((w.extractLsb' 60 4).toNat, (w.extractLsb' 56 4).toNat)
  let a := (w.extractLsb' 48 8).toNat
  let imm := (w.extractLsb' 0 32).toNat
  if (w.extractLsb' 32 16).toNat ≠ 0 then some .reservedBits
  else if pair ∉ operationPairs then some .unknownOperation
  else if (pair ∈ unusedA ∧ a ≠ 0) ∨ (pair ∈ unusedImm ∧ imm ≠ 0) then
    some .unusedField
  else if pair = (2, 0) ∧ a > 1 then some .badHalf
  else if (pair = (3, 0) ∨ pair = (3, 1)) ∧ a > 9 then some .badEvent
  else none

/-- What each index reads right after reset (`10_state.md` R58). -/
def resetWord (a : Nat) : Option Word :=
  if a ≤ 0x02 ∨ (0x10 ≤ a ∧ a ≤ 0x13) ∨ (0x20 ≤ a ∧ a ≤ 0x27) ∨ (0x30 ≤ a ∧ a ≤ 0x3A) ∨
      (0x40 ≤ a ∧ a ≤ 0x41) ∨ (0x80 ≤ a ∧ a ≤ 0x9A) then
    some (if a = 0x20 then 0x7C else if a = 0x21 then 1 else if a = 0x25 then 25 else 0)
  else none

/-- The word of PHD_CTRL: ARMED, STEP in 3:1, MODE in 6:4 (`10_state.md` R27). -/
def phdCtrlBits (s : State) : Nat :=
  s.phd.armed.toNat + 2 * s.phd.step.val + 16 * (modeCode s.phd.mode).toNat

/-- The word of FLT_CTRL: DET, BELOW, LAST_HALF in 3:2 (3 = none), LAST_STEP in 6:4 (7 = none), HF in
8, FF in 9 (R31). -/
def fltCtrlBits (s : State) : Nat :=
  s.flt.det.toNat + 2 * s.flt.below.toNat +
    4 * (match s.flt.lastHalf with
      | none => 3
      | some h => h.val) +
    16 * (match s.flt.lastStep with
      | none => 7
      | some st => st.val) +
    256 * s.flt.hf.toNat + 512 * s.flt.ff.toNat

/-- The word of SCH_CTRL: ARMED, CMP_IF, EVENT in 7:4 (R51). -/
def schCtrlBits (s : State) : Nat :=
  s.sch.armed.toNat + 2 * s.sch.cmpIf.toNat + 16 * (eventCode s.sch.event).toNat

/-- Every mapped index of R21 with the word it holds, as a number, from the fields of R24 to R53. -/
def registerWords (s : State) : List (Nat × Nat) :=
  [(0x00, s.sys.cnt.toNat),
    (0x01, s.sys.phdFailsafe.toNat + 2 * s.sys.pidBadmode.toNat + 4 * s.sys.adcGlitch.toNat),
    (0x02, s.sys.glitchCnt.toNat), (0x10, phdCtrlBits s), (0x11, s.phd.dc.toNat),
    (0x12, s.phd.gates.toNat), (0x13, s.phd.pwmFreq.toNat), (0x20, fltCtrlBits s),
    (0x21, s.flt.len.toNat), (0x22, s.flt.sum.toNat), (0x23, s.flt.ptr.toNat),
    (0x24, s.flt.navg.toNat), (0x25, s.flt.scalar.toNat), (0x26, s.flt.curAcc.toNat),
    (0x27, s.flt.batAcc.toNat), (0x30, s.tel.duty.toNat), (0x31, s.tel.speed.toNat),
    (0x32, s.tel.setpoint.toNat), (0x33, s.flt.curAcc.toNat / 128),
    (0x34, s.flt.batAcc.toNat / 16384), (0x35, s.tel.consecDet.toNat),
    (0x36, s.tel.consecMiss.toNat), (0x37, s.tel.errAccum.toNat), (0x38, s.tel.locked.toNat),
    (0x39, s.tel.lastSwap.toNat), (0x3A, s.tel.lastZcd.toNat), (0x40, schCtrlBits s),
    (0x41, s.sch.deadline.toNat)] ++
    (List.range 27).map fun n => (0x80 + n, ((s.settings[n]?).getD 0).toNat)

/-- The writable indices of R112. -/
def writable (a : Nat) : Prop :=
  a = 0x25 ∨ a = 0x30 ∨ a = 0x31 ∨ a = 0x32 ∨ a = 0x35 ∨ a = 0x36 ∨ a = 0x37 ∨
    (0x80 ≤ a ∧ a ≤ 0x9A)

/-- The 36 gate values of R189's table, by step and mode code. -/
def printedGates : List (List (BitVec 12)) :=
  [[0x042, 0x04C, 0x04E, 0x081, 0x031, 0x0B1], [0x402, 0x40C, 0x40E, 0x801, 0x301, 0xB01],
    [0x420, 0x4C0, 0x4E0, 0x810, 0x310, 0xB10], [0x024, 0x0C4, 0x0E4, 0x018, 0x013, 0x01B],
    [0x204, 0xC04, 0xE04, 0x108, 0x103, 0x10B], [0x240, 0xC40, 0xE40, 0x180, 0x130, 0x1B0]]

/-- `clampdc(x)` of `41_pid_control_law.md` R126, from the settings `MinDc` and `MaxDc`. -/
def dutyClamp (s : State) (x : Int) : Int :=
  max 0 (min (max x (setting s setMinDc)) (min (setting s setMaxDc) Config.impl.hwMaxDc))

/-- The duty written by the law, forwarded to the driver, the gates pushed (R131). -/
def DutyForwarded (t : State) (d : Int) : Prop :=
  (t.tel.duty.toNat : Int) = d ∧ t.phd.dc = t.tel.duty ∧ GatesPushed t

/-- The filtered current exceeds the soft limit (R122). -/
def overLimit (s : State) : Prop :=
  setting s setSoftCurrentLimit < ((s.flt.curAcc >>> 7).toNat : Int)

/-- The error of closed mode (R125): clamped from above only. -/
def closedError (s : State) : Int :=
  min (s.tel.setpoint.toInt - s.tel.speed.toNat) (setting s setMaxError)

/-- The accumulator after `integrate(e)` (R127). -/
def integrated (s : State) : Int :=
  let lim := max (Int.tdiv (setting s setILim) (setting s setKi)) 0
  if 0 < setting s setKi then
    max (-lim) (min (s.tel.errAccum.toInt + closedError s) lim)
  else s.tel.errAccum.toInt

/-- The controller's output in PID units (R125, R128). -/
def closedOutput (s : State) : Int :=
  let e := closedError s
  Config.impl.ff s.tel.speed.toNat (setting s setKv) (setting s setKff2)
      (s.flt.batAcc >>> 14).toNat +
    ((if e ≥ 0 then setting s setRisingKp else setting s setFallingKp) * e +
      setting s setKi * integrated s)

/-- The normalised difference of R147. -/
def normalisedDiff (c : Config) (s : State) (st : CommStep) (va vb vc : Nat) : Int :=
  let und := match floatPhase st with
    | .a => va
    | .b => vb
    | .c => vc
  c.pol st * (if setting s setDirection = 1 then -1 else 1) *
    ((und : Int) - ((va + vb + vc) / 3 : Nat))

/-- The filter's sum after R148's boxcar takes the difference in: a full window first evicts the
entry at `FLT.PTR`. -/
def boxcarSum (c : Config) (s : State) (st : CommStep) (va vb vc : Nat) : Word :=
  u32 (s.flt.sum.toInt -
      (if s.flt.len.toNat ≤ s.flt.navg.toNat then winAt s s.flt.ptr.toNat else 0) +
    normalisedDiff c s st va vb vc)

/-- What SCH.FIRE does to the slot and the event port (R176): consume the armed event, once. -/
def Fired (s t : State) : Prop :=
  t.sch.armed = false ∧ t.sch.event = s.sch.event ∧ t.sch.deadline = s.sch.deadline ∧
    t.events = s.events ++ (if s.sch.armed then [(s.sch.event, s.sys.cnt)] else []) ∧
    KeptBut [0x40] s t

end Sys2Proof.Claim
end

