-- ==== Sys2Proof/Certificates/Slice0/Obligations.lean ====
section
/-! DEFINITION. The statements for the provers, each a proposition about the model, with the rule of
spec/ it formalises. -/

open Sys2Proof Sys2Proof.Machine

/-! ### Encoding -/

/-- `30_encoding.md` R90, R93, R94: decoding the beat of a well-formed instruction gives it back,
with every operand at every value the encoding admits. -/
def Obligations.DecodeEncodeRoundTrip : Prop :=
  ∀ i : Instr, i.WellFormed → decode (encode i) = .ok i

/-- R93, R95: a beat the decoder accepts is the beat of the instruction it reads, and that
instruction is well-formed: no two beats are one instruction, and no ignored bit exists (R96). -/
def Obligations.EncodeDecodeRoundTrip : Prop :=
  ∀ (w : Beat) (i : Instr), decode w = .ok i → encode i = w ∧ i.WellFormed

/-- R93, R95: the decoder is the opcode table's masks plus the one range check of the event code; a
beat selects one row at most. -/
def Obligations.DecoderAgreesWithOpcodeTable : Prop :=
  (∀ (w : Beat) (i : Instr), decode w = .ok i →
      ∃ r ∈ opcodeTable, r.mnemonic = mnemonic i ∧ r.Selects w) ∧
    (∀ (w : Beat) (r : OpcodeRow), r ∈ opcodeTable → r.Selects w →
      (r.mnemonic = "SCH.SCHEDULE" ∨ r.mnemonic = "SCH.INJECT" → (aField w).toNat ≤ 9) →
      ∃ i, decode w = .ok i ∧ mnemonic i = r.mnemonic) ∧
    ∀ (w : Beat) (r r' : OpcodeRow), r ∈ opcodeTable → r' ∈ opcodeTable → r.Selects w →
      r'.Selects w → r = r'

/-- R95: a beat is illegal in exactly the five cases, tested in order, and the response is then
ILLEGAL with no state changed and no event emitted. -/
def Obligations.IllegalBeatsExactly : Prop :=
  ∀ w : Beat,
    (∀ e, decode w = .error e ↔ Claim.illegalCase w = some e) ∧
      ∀ s : State, Claim.illegalCase w ≠ none →
        perform (.beat w) s = .next { s with response := some ⟨.illegal, 0⟩ }

/-- A few words of `95_test_vectors.md` V-ENC-1, one per unit, read as the operations they stand
for. -/
def Obligations.SampleWordsDecode : Prop :=
  decode 0x02320000FFFFFF38 = .ok (.sysWrreg 0x32 0xFFFFFF38) ∧
    decode 0x1000000000000000 = .ok .pidStep ∧
    decode 0x2001000000000000 = .ok (.fltSample 1) ∧
    decode 0x3007000000000190 = .ok (.schSchedule 7 400) ∧
    decode 0x44000000000001A4 = .ok (.phdSetduty 420) ∧
    decode 0x5000000000000000 = .error .unknownOperation ∧
    decode 0x300A000000000000 = .error .badEvent

/-! ### The machine -/

/-- R90, `00_scope.md` R6: when the next move is a beat that decodes to `i`, step is exec of `i` at
the state with that move taken; when no move is given, step is the move the free choice names
(the model's choice, log entry 2). -/
def Obligations.StepRunsDecodedBeat : Prop :=
  (∀ (s : State) (w : Beat) (rest : List Move) (i : Instr),
      s.script = .beat w :: rest → decode w = .ok i →
      step s = exec i { s with script := rest, draws := s.draws + 1 }) ∧
    (∀ (s : State) (m : Move) (rest : List Move), s.script = m :: rest →
      step s = perform m { s with script := rest, draws := s.draws + 1 }) ∧
    ∀ s : State, s.script = [] →
      step s = perform (Config.impl.envMove s.draws) { s with draws := s.draws + 1 }

/-- `45_host_sequencer_contract.md` R226, `93_implementation_defined.md` part 1: every agent step is
total: no step ends in a fault or a refusal. -/
def Obligations.EveryStepAnswers : Prop :=
  ∀ s : State, ∃ t, step s = .next t

/-- R58, `70_reset_and_hazards.md` R270: asserting reset, in any state, leaves every register at its
reset value and the event port empty, WIN zero; so does the machine's reset state. -/
def Obligations.ResetValues : Prop :=
  (∀ s : State, ∃ t, perform .reset s = .next t ∧
      (∀ a : BitVec 8, readIndex t a = Claim.resetWord a.toNat) ∧ (∀ k, winAt t k = 0) ∧
      t.events = []) ∧
    (∀ a : BitVec 8, readIndex State.reset a = Claim.resetWord a.toNat) ∧
    (∀ k, winAt State.reset k = 0) ∧ State.reset.events = []

/-- `10_state.md` R57: the invariant holds right after reset. -/
def Obligations.ResetMeetsInvariant : Prop :=
  FilterInv State.reset

/-- R57 (ii) to (iv), R37 to R39, `20_memory.md` R73: every step of every agent keeps the invariant;
the canonical form of the two memories in it is the model's own (log entry 7). -/
def Obligations.StepKeepsInvariant : Prop :=
  ∀ s t : State, Inv s → step s = .next t → Inv t

/-- R57 (v), with R57 (ii) to (iv), R37 to R39 and `20_memory.md` R73 in `Inv`: every step keeps
`FLT.SUM` equal to the sum of the most recent window entries. The canonical form of the two memories
in `Inv` is the model's own (log entry 7). -/
def Obligations.StepKeepsWindowSum : Prop :=
  ∀ s t : State, FilterInv s → step s = .next t → FilterInv t

/-- `44_phase_driver.md` R198 (ii) to (v): after any step the gates are those of the table, the
floating phase is not driven, no supply is shorted, and disarmed means all OFF. -/
def Obligations.GatesStaySafe : Prop :=
  ∀ s t : State, GatesPushed s → step s = .next t → GatesPushed t ∧ GatesSafe t

/-- `10_state.md` R24: only the CLOCK agent advances the counter, by 1 modulo 2^32; reset alone sets
it. -/
def Obligations.CounterWrittenByClockOnly : Prop :=
  ∀ (m : Move) (s t : State), perform m s = .next t →
    t.sys.cnt = if m = .tick then s.sys.cnt + 1 else if m = .reset then 0 else s.sys.cnt

/-- R25, R26, `60_exceptions.md` R248: the status bits are sticky and the glitch counter never goes
down; reset alone clears them. -/
def Obligations.StatusBitsSticky : Prop :=
  ∀ (m : Move) (s t : State), perform m s = .next t → m ≠ .reset →
    (s.sys.phdFailsafe = true → t.sys.phdFailsafe = true) ∧
      (s.sys.pidBadmode = true → t.sys.pidBadmode = true) ∧
      (s.sys.adcGlitch = true → t.sys.adcGlitch = true) ∧
      s.sys.glitchCnt.toNat ≤ t.sys.glitchCnt.toNat

/-- R53, R36, R41, R42, R45, R46: the settings and `FLT.SCALAR` are written by SYS.WRREG and reset
alone; `TEL.SPEED`, `TEL.SETPOINT` and the two counters of the host by these and SYS.TELZERO. -/
def Obligations.HostRegistersWrittenByHostOnly : Prop :=
  ∀ (m : Move) (s t : State), perform m s = .next t → m ≠ .reset →
    (∀ w a v, m = .beat w → decode w ≠ .ok (.sysWrreg a v)) →
    t.settings = s.settings ∧ t.flt.scalar = s.flt.scalar ∧
      ((∀ w, m = .beat w → decode w ≠ .ok .sysTelzero) →
        t.tel.speed = s.tel.speed ∧ t.tel.setpoint = s.tel.setpoint ∧
          t.tel.consecDet = s.tel.consecDet ∧ t.tel.consecMiss = s.tel.consecMiss)

/-- `20_memory.md` R70, `10_state.md` R39: only FLT.SAMPLE (by a beat or by FLTSVC) and reset write
WIN; only the ADC agent and reset change ADCBUF. -/
def Obligations.MemoryWriters : Prop :=
  ∀ (m : Move) (s t : State), perform m s = .next t → m ≠ .reset →
    (m ≠ .fltsvc → (∀ w a, m = .beat w → decode w ≠ .ok (.fltSample a)) → WinKept s t) ∧
      ((∀ h frames, m ≠ .adc h frames) → AdcKept s t)

/-- `60_exceptions.md` R241, R243: the event port only grows, by one event at most per step, stamped
with the counter; CLOCK, ADC, the SYS and PHD operations and SCH.SCHEDULE emit nothing, SCH.INJECT
always emits its event, PID.STEP only FAULT, FLT.SAMPLE only ZCD, SCH.FIRE only the stored event. -/
def Obligations.EventsPerMove : Prop :=
  ∀ (m : Move) (s t : State), perform m s = .next t → m ≠ .reset →
    (t.events = s.events ∨ ∃ e, t.events = s.events ++ [(e, s.sys.cnt)]) ∧
      (m = .tick ∨ (∃ h frames, m = .adc h frames) → t.events = s.events) ∧
      ∀ e, t.events = s.events ++ [(e, s.sys.cnt)] →
        (m = .fltsvc ∧ e = .zcd) ∨ ((m = .schsvc ∨ m = .tmo) ∧ s.sch.armed ∧ e = s.sch.event) ∨
          ∃ w, m = .beat w ∧
            (decode w = .ok .pidStep ∧ e = .fault ∨
              (∃ a, decode w = .ok (.fltSample a)) ∧ e = .zcd ∨
              (∃ a, decode w = .ok (.schInject a) ∧ eventOperand a = some e) ∨
              decode w = .ok .schFire ∧ s.sch.armed ∧ e = s.sch.event)

/-- R241, `10_state.md` R22: the output ports are never read back: an operation does the same
whatever they hold, the event port growing at its end. -/
def Obligations.PortsNeverReadBack : Prop :=
  ∀ (i : Instr) (s t : State) (earlier : List (Event × Word)) (r : Option Response),
    exec i s = .next t →
    exec i { s with events := earlier ++ s.events, response := r } =
      .next { t with events := earlier ++ t.events }

/-! ### SYS -/

/-- `40_system.md` R110: the all-zero beat is SYS.NOP; it leaves the state unchanged and answers
(OK, 0). -/
def Obligations.NopResult : Prop :=
  decode 0x0000000000000000 = .ok .sysNop ∧
    ∀ s : State, exec .sysNop s = .next { s with response := some ⟨.ok, 0⟩ }

/-- R111, `10_state.md` R21, R43, R44: SYS.RDREG answers the register's word, assembled from its
fields with reserved bits 0, the two views computed, (BADREG, 0) for an unmapped index, and changes
nothing. -/
def Obligations.RdregResult : Prop :=
  (∀ a : BitVec 8, (encode (.sysRdreg a)).toNat = 0x0100000000000000 + a.toNat * 2 ^ 48) ∧
    ∀ (a : BitVec 8) (s : State),
      exec (.sysRdreg a) s =
        .next
          { s with
            response := some
              (match (Claim.registerWords s).lookup a.toNat with
              | none => ⟨.badReg, 0⟩
              | some n => ⟨.ok, BitVec.ofNat 32 n⟩) }

/-- R112: SYS.WRREG stores the 32 bits (`TEL.DUTY` its low 16) where the index is writable and
changes no other register; elsewhere BADREG with nothing written. -/
def Obligations.WrregResult : Prop :=
  (∀ (a : BitVec 8) (v : Word),
      (encode (.sysWrreg a v)).toNat = 0x0200000000000000 + a.toNat * 2 ^ 48 + v.toNat) ∧
    ∀ (a : BitVec 8) (v : Word) (s : State), ∃ t, exec (.sysWrreg a v) s = .next t ∧
      t.events = s.events ∧
      (Claim.writable a.toNat → Answers t .ok 0 ∧ KeptBut [a.toNat] s t ∧
        readIndex t a = some (if a = 0x30 then (v.setWidth 16).setWidth 32 else v)) ∧
      (¬ Claim.writable a.toNat → Answers t .badReg 0 ∧ KeptBut [] s t)

/-- R113, `10_state.md` R54: SYS.TELZERO zeroes the telemetry group and nothing else; a scheduled
event is discarded without being emitted. -/
def Obligations.TelzeroResult : Prop :=
  decode 0x0300000000000000 = .ok .sysTelzero ∧
    ∀ s : State, ∃ t, exec .sysTelzero s = .next t ∧ Answers t .ok 0 ∧ t.events = s.events ∧
      (∀ a : BitVec 8, (0x30 ≤ a.toNat ∧ a.toNat ≤ 0x3A) ∨ a = 0x26 ∨ a = 0x27 ∨ a = 0x40 ∨
        a = 0x41 → readIndex t a = some 0) ∧
      KeptBut [0x26, 0x27, 0x30, 0x31, 0x32, 0x33, 0x34, 0x35, 0x36, 0x37, 0x38, 0x39, 0x3A, 0x40,
        0x41] s t

/-! ### PHD -/

/-- `44_phase_driver.md` R189: armed, `push()` computes the printed table; disarmed, all OFF. -/
def Obligations.GatesMatchPrintedTable : Prop :=
  ∀ (st : CommStep) (m : DriveMode),
    (Claim.printedGates[st.val]?.bind fun row => row[(modeCode m).toNat]?) =
        some (gatesOf true st m) ∧ gatesOf false st m = 0

/-- R190: PHD.INIT disarms with zero duty at step 0 in the given mode and stores the configuration
word; a mode above 5 fails safe. -/
def Obligations.InitResult : Prop :=
  (∀ (a : BitVec 8) (v : Word),
      (encode (.phdInit a v)).toNat = 0x4000000000000000 + a.toNat * 2 ^ 48 + v.toNat) ∧
    ∀ (a : BitVec 8) (cfg : Word) (s : State), ∃ t, exec (.phdInit a cfg) s = .next t ∧
      if a.toNat ≤ 5 then
        Answers t .ok 0 ∧ t.phd.armed = false ∧ t.phd.dc = 0 ∧ t.phd.step = 0 ∧
          (modeCode t.phd.mode).toNat = a.toNat ∧ t.phd.pwmFreq = cfg ∧ t.phd.gates = 0 ∧
          t.events = s.events ∧ KeptBut [0x10, 0x11, 0x12, 0x13] s t
      else FailsSafe s t

/-- R191: PHD.OFF disarms, zeroes the duty and turns every gate OFF, keeping step and mode. -/
def Obligations.OffResult : Prop :=
  decode 0x4100000000000000 = .ok .phdOff ∧
    ∀ s : State, ∃ t, exec .phdOff s = .next t ∧ Answers t .ok 0 ∧ t.phd.armed = false ∧
      t.phd.dc = 0 ∧ t.phd.gates = 0 ∧ t.phd.step = s.phd.step ∧ t.phd.mode = s.phd.mode ∧
      t.events = s.events ∧ KeptBut [0x10, 0x11, 0x12] s t

/-- R192: PHD.ARM arms and applies the current step and mode at once, at the current duty. -/
def Obligations.ArmResult : Prop :=
  decode 0x4200000000000000 = .ok .phdArm ∧
    ∀ s : State, ∃ t, exec .phdArm s = .next t ∧ Answers t .ok 0 ∧ t.phd.armed = true ∧
      t.phd.step = s.phd.step ∧ t.phd.mode = s.phd.mode ∧
      t.phd.gates = gatesOf true s.phd.step s.phd.mode ∧ t.events = s.events ∧
      KeptBut [0x10, 0x12] s t

/-- R193: PHD.SETMODE stores the mode and pushes; a mode above 5 fails safe. -/
def Obligations.SetmodeResult : Prop :=
  (∀ a : BitVec 8, (encode (.phdSetmode a)).toNat = 0x4300000000000000 + a.toNat * 2 ^ 48) ∧
    ∀ (a : BitVec 8) (s : State), ∃ t, exec (.phdSetmode a) s = .next t ∧
      if a.toNat ≤ 5 then
        Answers t .ok 0 ∧ (modeCode t.phd.mode).toNat = a.toNat ∧ t.phd.armed = s.phd.armed ∧
          t.phd.step = s.phd.step ∧ GatesPushed t ∧ t.events = s.events ∧
          KeptBut [0x10, 0x12] s t
      else FailsSafe s t

/-- R194: PHD.SETDUTY stores any duty up to `DC_ONE` and pushes; above it, fail-safe. -/
def Obligations.SetdutyResult : Prop :=
  (∀ d : Word, (encode (.phdSetduty d)).toNat = 0x4400000000000000 + d.toNat) ∧
    ∀ (d : Word) (s : State), ∃ t, exec (.phdSetduty d) s = .next t ∧
      if d.toNat ≤ Config.impl.dcOne then
        Answers t .ok 0 ∧ t.phd.dc.toNat = d.toNat ∧ GatesPushed t ∧ t.events = s.events ∧
          KeptBut [0x11, 0x12] s t
      else FailsSafe s t

/-- R195: PHD.SETSTATE stores the step, latches `TEL.LAST_SWAP` and pushes; a step above 5 fails
safe. -/
def Obligations.SetstateResult : Prop :=
  (∀ a : BitVec 8, (encode (.phdSetstate a)).toNat = 0x4500000000000000 + a.toNat * 2 ^ 48) ∧
    ∀ (a : BitVec 8) (s : State), ∃ t, exec (.phdSetstate a) s = .next t ∧
      if a.toNat ≤ 5 then
        Answers t .ok 0 ∧ t.phd.step.val = a.toNat ∧ t.phd.armed = s.phd.armed ∧
          t.phd.mode = s.phd.mode ∧ t.tel.lastSwap = s.sys.cnt ∧ GatesPushed t ∧
          t.events = s.events ∧ KeptBut [0x10, 0x12, 0x39] s t
      else FailsSafe s t

/-- R196: PHD.NEXT advances the step modulo 6, latches `TEL.LAST_SWAP` and pushes. -/
def Obligations.NextResult : Prop :=
  decode 0x4600000000000000 = .ok .phdNext ∧
    ∀ s : State, ∃ t, exec .phdNext s = .next t ∧ Answers t .ok 0 ∧
      t.phd.step.val = (s.phd.step.val + 1) % 6 ∧ t.phd.armed = s.phd.armed ∧
      t.phd.mode = s.phd.mode ∧ t.tel.lastSwap = s.sys.cnt ∧ GatesPushed t ∧
      t.events = s.events ∧ KeptBut [0x10, 0x12, 0x39] s t

/-- R198 (vi): six PHD.NEXT return the step to its value, and with it the gates. -/
def Obligations.SixNextsReturn : Prop :=
  ∀ s : State, GatesPushed s → ∃ t,
    performAll (List.replicate 6 (.beat 0x4600000000000000)) s = .next t ∧
      t.phd = s.phd ∧ t.tel.lastSwap = s.sys.cnt

/-! ### PID -/

/-- R122: case 1, current limiting. -/
def Obligations.PidCurrentLimiting : Prop :=
  ∀ s : State, Claim.overLimit s → ∃ t, exec .pidStep s = .next t ∧ Answers t .ok 0 ∧
    Claim.DutyForwarded t
      (Claim.dutyClamp s (s.tel.duty.toNat - max (setting s setMaxDcChange) 0)) ∧
    t.events = s.events ∧ KeptBut [0x11, 0x12, 0x30] s t

/-- R123: case 2: past case 1 the lock gate is read afresh and written to `TEL.LOCKED`; where it is
false nothing else is written. -/
def Obligations.PidLockGate : Prop :=
  ∀ s : State, ¬ Claim.overLimit s → ∃ t, exec .pidStep s = .next t ∧ Answers t .ok 0 ∧
    (t.tel.locked = true ↔ 12 ≤ s.tel.consecDet.toNat) ∧
    (s.tel.consecDet.toNat < 12 → t.events = s.events ∧ KeptBut [0x38] s t)

/-- R124: case 3, open mode. -/
def Obligations.PidOpenMode : Prop :=
  ∀ s : State, ¬ Claim.overLimit s → 12 ≤ s.tel.consecDet.toNat → setting s setMode = 0 →
    ∃ t, exec .pidStep s = .next t ∧ Answers t .ok 0 ∧ t.tel.locked = true ∧
      Claim.DutyForwarded t (Claim.dutyClamp s s.tel.setpoint.toInt) ∧
      t.events = s.events ∧ KeptBut [0x11, 0x12, 0x30, 0x38] s t

/-- R125, R126, R127, R128, R129, R131: case 4, closed mode. -/
def Obligations.PidClosedMode : Prop :=
  ∀ s : State, ¬ Claim.overLimit s → 12 ≤ s.tel.consecDet.toNat → setting s setMode = 1 →
    let e := Claim.closedError s
    let mdc := max (setting s setMaxDcChange) 0
    let target := Int.tdiv (Claim.closedOutput s * Config.impl.dcOne) Config.impl.pidScale
    let delta := max (-mdc) (min (target - s.tel.duty.toNat) mdc)
    ∃ t, exec .pidStep s = .next t ∧ Answers t .ok 0 ∧ t.tel.locked = true ∧
      t.tel.errAccum.toInt = Claim.integrated s ∧
      Claim.DutyForwarded t (Claim.dutyClamp s (s.tel.duty.toNat + delta)) ∧
      t.phd.armed = s.phd.armed ∧ t.phd.step = s.phd.step ∧
      t.phd.mode =
        (if setting s setBraking = 1 ∧ e < -setting s setBrakeOnErr then .lowOnPwmBoth
        else if setting s setBraking = 1 ∧ e > -setting s setBrakeOffErr then .lowOnPwmHigh
        else s.phd.mode) ∧
      t.events = s.events ∧ KeptBut [0x10, 0x11, 0x12, 0x30, 0x37, 0x38] s t

/-- R130: case 5, an unrecognised mode emits FAULT and sets the status bit, nothing else. -/
def Obligations.PidUnrecognisedMode : Prop :=
  ∀ s : State, ¬ Claim.overLimit s → 12 ≤ s.tel.consecDet.toNat → setting s setMode ≠ 0 →
    setting s setMode ≠ 1 →
    ∃ t, exec .pidStep s = .next t ∧ Answers t .ok 0 ∧ t.tel.locked = true ∧
      t.sys.pidBadmode = true ∧ t.sys.phdFailsafe = s.sys.phdFailsafe ∧
      t.sys.adcGlitch = s.sys.adcGlitch ∧ t.events = s.events ++ [(.fault, s.sys.cnt)] ∧
      KeptBut [0x01, 0x38] s t

/-- R132: the postcondition of an update (cases 1, 3, 4): the duty is within its clamp and is the
driver's, and in closed mode moves by `mdc` at most from a duty that was within; in cases 2 and 5
the duty is what it was. -/
def Obligations.PidPostcondition : Prop :=
  ∀ s t : State, exec .pidStep s = .next t →
    let lo := setting s setMinDc
    let hi := min (setting s setMaxDc) Config.impl.hwMaxDc
    let new : Int := t.tel.duty.toNat
    let old : Int := s.tel.duty.toNat
    let gated := ¬ Claim.overLimit s ∧ s.tel.consecDet.toNat < 12
    let passed := ¬ Claim.overLimit s ∧ 12 ≤ s.tel.consecDet.toNat
    let updates := Claim.overLimit s ∨
      (passed ∧ (setting s setMode = 0 ∨ setting s setMode = 1))
    (updates → (0 ≤ hi → new ≤ hi) ∧ (hi < 0 → new = 0) ∧ (0 ≤ lo ∧ lo ≤ hi → lo ≤ new) ∧
        t.phd.dc = t.tel.duty) ∧
      (passed ∧ setting s setMode = 1 ∧ lo ≤ old ∧ old ≤ hi →
        |new - old| ≤ max (setting s setMaxDcChange) 0) ∧
      (gated ∨ (passed ∧ setting s setMode ≠ 0 ∧ setting s setMode ≠ 1) → t.tel.duty = s.tel.duty)

/-! ### FLT -/

/-- `42_bemf_filter.md` R140: FLT.SAMPLE always completes with (OK, 0), having done what FLTSVC's
FLT.SAMPLE does on that half, and writes the filter's registers, the ADC_GLITCH bit and its
counter, `TEL.LAST_ZCD` and WIN only. A half above 1 is ILLEGAL with nothing changed; no beat decodes
to such a term (R95), and that exec answers so is the model's reading: log entry 16. -/
def Obligations.FltSampleCompletes : Prop :=
  (∀ a : BitVec 8, (encode (.fltSample a)).toNat = 0x2000000000000000 + a.toNat * 2 ^ 48) ∧
    ∀ (a : BitVec 8) (s : State), ∃ t, exec (.fltSample a) s = .next t ∧
      if a.toNat ≤ 1 then
        Answers t .ok 0 ∧ { t with response := s.response } = fltSample Config.impl (if a = 0 then 0 else 1) s ∧
          t.sys.phdFailsafe = s.sys.phdFailsafe ∧ t.sys.pidBadmode = s.sys.pidBadmode ∧
          RegsKept [0x01, 0x02, 0x20, 0x21, 0x22, 0x23, 0x24, 0x26, 0x27, 0x33, 0x34, 0x3A] s t ∧
          AdcKept s t ∧ ScriptKept s t
      else t = { s with response := some ⟨.illegal, 0⟩ }

/-- R141, R143: the repeat-pointer check runs on every batch, and a batch inside the blanking window
does nothing else: the state after it is the state before but for the ADC_GLITCH bit and its counter,
the repeat pointer and the batch flags. -/
def Obligations.BlankedBatchDropped : Prop :=
  ∀ (c : Config) (h : Half) (s : State),
    (s.sys.cnt - s.tel.lastSwap).toNat < c.demagBlankingUs →
    let t := fltSample c h s
    t =
        { s with
          sys :=
            { s.sys with
              adcGlitch := s.sys.adcGlitch || decide (s.flt.lastHalf = some h)
              glitchCnt := t.sys.glitchCnt }
          flt :=
            { s.flt with
              lastHalf := some h
              hf := false
              ff := if h = 1 then false else s.flt.ff } } ∧
      t.sys.glitchCnt.toNat =
        if s.flt.lastHalf = some h then min (s.sys.glitchCnt.toNat + 1) (2 ^ 32 - 1)
        else s.sys.glitchCnt.toNat

/-- R145, R146: the first unblanked batch of a new commutation step records the step and computes
the window length from the speed and the scalar; later batches of the step keep both. -/
def Obligations.StepChangeSetsWindow : Prop :=
  ∀ (c : Config) (h : Half) (s : State),
    c.demagBlankingUs ≤ (s.sys.cnt - s.tel.lastSwap).toNat →
    let t := fltSample c h s
    t.flt.lastStep = some s.phd.step ∧
      t.flt.len.toNat =
        if s.flt.lastStep = some s.phd.step then s.flt.len.toNat
        else
          max 1 (min (c.fltTable (min (s.tel.speed.toNat / 128) (c.nb - 1)) * s.flt.scalar.toNat / 100)
            c.maxRunningFilter)

/-- R140, R145, R146: past blanking, a batch is its frames processed one after another, oldest first,
with the samples of its half as they stood at the start and the commutation step read once; a new
step first empties the filter, records the step and computes the window length. -/
def Obligations.BatchFramesInOrder : Prop :=
  ∀ (c : Config) (h : Half) (s : State),
    c.demagBlankingUs ≤ (s.sys.cnt - s.tel.lastSwap).toNat →
    let r := repeatCheck h s
    let entered :=
      if s.flt.lastStep = some s.phd.step then r
      else
        { r with
          flt :=
            { r.flt with
              sum := 0
              ptr := 0
              navg := 0
              det := false
              below := false
              lastStep := some s.phd.step
              len := BitVec.ofNat 16
                (max 1 (min (c.fltTable (min (s.tel.speed.toNat / 128) (c.nb - 1)) *
                  s.flt.scalar.toNat / 100) c.maxRunningFilter)) } }
    fltSample c h s =
      (List.range c.nf).foldl
        (fun u f => filterFrame c s.phd.step (adcRead c s h f 0) (adcRead c s h f 1)
          (adcRead c s h f 2) (adcRead c s h f 3) u) entered

/-- `00_scope.md` R8, R153 (i), (ii): the window length is in 1..MAX_RUNNING_FILTER and does not
grow with the speed, for every scalar; Scenario C: RPM 5000 at scalar 25 gives 3 (where the maximum
window allows it). -/
def Obligations.WindowLengthAntitone : Prop :=
  ∀ (c : Config),
    (∀ speed scalar, 1 ≤ windowLength c speed scalar ∧
      windowLength c speed scalar ≤ c.maxRunningFilter) ∧
    (∀ speed speed' scalar, speed ≤ speed' →
      windowLength c speed' scalar ≤ windowLength c speed scalar) ∧
    windowLength c 5000 25 = min 3 c.maxRunningFilter

/-- R144, R151: each frame updates the current accumulator with weight 1/128, and the battery
accumulator with weight 1/16384 from the high phase while `TEL.DUTY > BATT_DC_MIN`, whether or not
a crossing was detected. -/
def Obligations.FrameSmoothers : Prop :=
  ∀ (c : Config) (st : CommStep) (va vb vc i : Nat) (s : State), i < 2 ^ c.adcW →
    let t := filterFrame c st va vb vc i s
    let drv := match highPhase st with
      | .a => va
      | .b => vb
      | .c => vc
    t.flt.curAcc.toNat = s.flt.curAcc.toNat - s.flt.curAcc.toNat / 128 + c.curcal i ∧
      t.flt.batAcc.toNat =
        if s.tel.duty.toNat > c.battDcMin then
          s.flt.batAcc.toNat - s.flt.batAcc.toNat / 16384 + c.battEst drv s.tel.duty.toNat
        else s.flt.batAcc.toNat

/-- R147, R148: a frame before detection stores the difference at `FLT.PTR`, evicts the oldest entry
of a full window, and advances the pointer modulo the length and the count to 65535 at most. That the
sum is taken modulo the register's width, where it does not fit, is the model's: log entry 9. -/
def Obligations.FrameBoxcar : Prop :=
  ∀ (c : Config) (st : CommStep) (va vb vc i : Nat) (s : State), s.flt.det = false →
    let t := filterFrame c st va vb vc i s
    (∀ k, winAt t k =
        if k = s.flt.ptr.toNat then Claim.normalisedDiff c s st va vb vc else winAt s k) ∧
      t.flt.sum = Claim.boxcarSum c s st va vb vc ∧
      t.flt.ptr = BitVec.ofNat 16 ((s.flt.ptr.toNat + 1) % s.flt.len.toNat) ∧
      t.flt.navg.toNat = min (s.flt.navg.toNat + 1) 65535 ∧ t.flt.len = s.flt.len

/-- R149: after the boxcar, a full window with a negative sum sets `FLT.BELOW`; a full window with a
positive sum that was below before (or without `ZC_EDGE`) sets `FLT.DET`, latches `TEL.LAST_ZCD` and
emits ZCD; nothing else does. The sum is the boxcar's, taken modulo the register's width where it does
not fit: that narrowing is the model's, log entry 9. -/
def Obligations.FrameZeroCross : Prop :=
  ∀ (c : Config) (st : CommStep) (va vb vc i : Nat) (s : State), s.flt.det = false →
    let t := filterFrame c st va vb vc i s
    let sum := (Claim.boxcarSum c s st va vb vc).toInt
    let full := s.flt.len.toNat ≤ min (s.flt.navg.toNat + 1) 65535
    let cross := full ∧ (s.flt.below = true ∨ c.zcEdge = false) ∧ sum > 0
    (t.flt.below = true ↔ s.flt.below = true ∨ (full ∧ sum < 0)) ∧
      (cross → t.flt.det = true ∧ t.tel.lastZcd = s.sys.cnt ∧
        t.events = s.events ++ [(.zcd, s.sys.cnt)]) ∧
      (¬ cross → t.flt.det = false ∧ t.tel.lastZcd = s.tel.lastZcd ∧ t.events = s.events)

/-- R150: once a crossing was detected in the step, a batch of the same step leaves the window, the
sum, the pointer, the count and the flags of the filter as they are and emits nothing. -/
def Obligations.DetectedStepDropped : Prop :=
  ∀ (c : Config) (h : Half) (s : State), s.flt.det = true →
    s.flt.lastStep = some s.phd.step →
    let t := fltSample c h s
    t.flt.det = true ∧ t.flt.below = s.flt.below ∧ t.flt.sum = s.flt.sum ∧ t.flt.ptr = s.flt.ptr ∧
      t.flt.navg = s.flt.navg ∧ t.flt.len = s.flt.len ∧ t.tel = s.tel ∧ t.events = s.events ∧
      WinKept s t

/-- R149, R150, R153 (iii): one FLT.SAMPLE emits one ZCD at most, and emitting it sets `FLT.DET`,
which drops the rest of the batch and of the step. -/
def Obligations.OneZcdPerSample : Prop :=
  ∀ (c : Config) (h : Half) (s : State),
    let t := fltSample c h s
    (t.events = s.events ∧ t.tel = s.tel) ∨
      (t.events = s.events ++ [(.zcd, s.sys.cnt)] ∧ t.flt.det = true ∧
        t.tel = { s.tel with lastZcd := s.sys.cnt })

/-- R142, `30_encoding.md` R99, `60_exceptions.md` R245 (iii): FLTSVC performs the FLT.SAMPLE of half 1
where the full flag is set, else that of half 0 where it is flagged, exactly as the command does
(FltSampleCompletes) but for the response, which is discarded; the batch flags are then clear, and
what FLT.SAMPLE does not write is as before. With none flagged the agent is not enabled, and that its
move then does nothing is the model's choice: log entry 4. -/
def Obligations.FltsvcServesFullFirst : Prop :=
  ∀ s : State, ∃ t, perform .fltsvc s = .next t ∧ t.response = s.response ∧
    (s.flt.ff = true → t = fltSample Config.impl 1 s ∧
      t.flt.lastHalf = some 1 ∧ t.flt.hf = false ∧ t.flt.ff = false) ∧
    (s.flt.ff = false → s.flt.hf = true → t = fltSample Config.impl 0 s ∧
      t.flt.lastHalf = some 0 ∧ t.flt.hf = false ∧ t.flt.ff = false) ∧
    (s.flt.ff = false → s.flt.hf = false → t = s) ∧
    t.sys.phdFailsafe = s.sys.phdFailsafe ∧ t.sys.pidBadmode = s.sys.pidBadmode ∧
    RegsKept [0x01, 0x02, 0x20, 0x21, 0x22, 0x23, 0x24, 0x26, 0x27, 0x33, 0x34, 0x3A] s t ∧
    AdcKept s t ∧ ScriptKept s t

/-- `20_memory.md` R73, R74: an ADC step writes every sample of its half, as the converter's `ADC_W`
bits, and no other; it sets that half's flag and changes no other register. (That a sample of the
move is cut to `ADC_W` bits, and that a frame the move does not give is free, is the model's choice:
log entry 5.) -/
def Obligations.AdcFillResult : Prop :=
  ∀ (h : Half) (frames : List Frame) (s : State), ∃ t, perform (.adc h frames) s = .next t ∧
    (∀ f ch, f < Config.impl.nf → ch < 4 →
      (∀ fr, frames[f]? = some fr →
        adcRead Config.impl t h f ch = (frameChannel fr ch).toNat % 2 ^ Config.impl.adcW) ∧
      adcRead Config.impl t h f ch < 2 ^ Config.impl.adcW ∧
      adcRead Config.impl t (1 - h) f ch = adcRead Config.impl s (1 - h) f ch) ∧
    t.flt =
      { s.flt with
        hf := if h = 0 then true else s.flt.hf
        ff := if h = 0 then s.flt.ff else true } ∧
    t.events = s.events ∧ t.response = s.response ∧ RegsKept [0x20] s t ∧ WinKept s t ∧
    ScriptKept s t

/-! ### SCH -/

/-- `43_scheduler.md` R170: SCH.SCHEDULE replaces the single slot at once: event, armed, deadline,
pending match cleared. An event code above 9 is ILLEGAL with nothing written; no beat decodes to
such a term (R95), and that exec answers so is the model's reading: log entry 16. -/
def Obligations.ScheduleResult : Prop :=
  (∀ (a : BitVec 8) (v : Word),
      (encode (.schSchedule a v)).toNat = 0x3000000000000000 + a.toNat * 2 ^ 48 + v.toNat) ∧
    ∀ (a : BitVec 8) (d : Word) (s : State), ∃ t, exec (.schSchedule a d) s = .next t ∧
      if a.toNat ≤ 9 then
        Answers t .ok 0 ∧ (eventCode t.sch.event).toNat = a.toNat ∧ t.sch.armed = true ∧
          t.sch.deadline.toNat = (s.sys.cnt.toNat + d.toNat) % 2 ^ 32 ∧ t.sch.cmpIf = false ∧
          t.events = s.events ∧ KeptBut [0x40, 0x41] s t
      else t = { s with response := some ⟨.illegal, 0⟩ }

/-- R171: SCH.INJECT emits its event at once and leaves the slot. A code above 9 is ILLEGAL; no beat
decodes to such a term (R95), and that exec answers so is the model's reading: log entry 16. -/
def Obligations.InjectResult : Prop :=
  (∀ a : BitVec 8, (encode (.schInject a)).toNat = 0x3100000000000000 + a.toNat * 2 ^ 48) ∧
    ∀ (a : BitVec 8) (s : State), ∃ t, exec (.schInject a) s = .next t ∧
      if a.toNat ≤ 9 then
        Answers t .ok 0 ∧ KeptBut [] s t ∧
          ∃ e, (eventCode e).toNat = a.toNat ∧ t.events = s.events ++ [(e, s.sys.cnt)]
      else t = { s with response := some ⟨.illegal, 0⟩ }

/-- R176: SCH.FIRE clears the armed flag and emits the stored event, if armed. -/
def Obligations.FireResult : Prop :=
  decode 0x3200000000000000 = .ok .schFire ∧
    ∀ s : State, ∃ t, exec .schFire s = .next t ∧ Answers t .ok 0 ∧ t.sch.cmpIf = s.sch.cmpIf ∧
      Claim.Fired s t

/-- R174, R175: SCHSVC, where the match is pending, clears it and fires; TMO fires and leaves the
pending bit; neither moves the response port. -/
def Obligations.ServiceAgentsFire : Prop :=
  (∀ s : State, s.sch.cmpIf = true → ∃ t, perform .schsvc s = .next t ∧ t.sch.cmpIf = false ∧
      t.response = s.response ∧ Claim.Fired s t) ∧
    ∀ s : State, ∃ t, perform .tmo s = .next t ∧ t.sch.cmpIf = s.sch.cmpIf ∧
      t.response = s.response ∧ Claim.Fired s t

/-- R173: a CLOCK step advances the counter modulo 2^32 and sets the pending bit when the advanced
counter equals the deadline, armed or not; it changes nothing else. -/
def Obligations.TickResult : Prop :=
  ∀ s : State, ∃ t, perform .tick s = .next t ∧
    t.sys.cnt.toNat = (s.sys.cnt.toNat + 1) % 2 ^ 32 ∧
    (t.sch.cmpIf = true ↔ s.sch.cmpIf = true ∨ t.sys.cnt = s.sch.deadline) ∧
    t.sch.armed = s.sch.armed ∧ t.sch.event = s.sch.event ∧ t.events = s.events ∧
    t.response = s.response ∧ KeptBut [0x00, 0x40] s t

/-- R170, R173, `70_reset_and_hazards.md` R274: after SCH.SCHEDULE, whatever ADC and FLTSVC steps fall
between the CLOCK steps, the match is pending from the CLOCK step number `delay` on and not before;
with delay 0 it comes 2^32 CLOCK steps later. -/
def Obligations.DeadlineMatchesOnTime : Prop :=
  ∀ (e : Event) (d : Word) (s t : State) (ms : List Move), (∀ m ∈ ms, timeMove m = true) →
    ms.count .tick ≤ 2 ^ 32 → performAll ms (schedule e d s) = .next t →
    (t.sch.cmpIf = true ↔ (if d = 0 then 2 ^ 32 else d.toNat) ≤ ms.count .tick) ∧
      t.sch.armed = true ∧ t.sch.event = e

/-- R177: the event SCH.SCHEDULE stored is emitted once at most, and exactly once when it is no
longer armed, whatever the agents do, as long as the host issues nothing. (For an event the other
units do not emit.) -/
def Obligations.ScheduledEventConsumedOnce : Prop :=
  ∀ (e : Event) (d : Word) (s t : State) (ms : List Move), e ≠ .zcd →
    (∀ m ∈ ms, agentMove m = true) → performAll ms (schedule e d s) = .next t →
    ∃ l, t.events = s.events ++ l ∧
      (l.filter fun p => p.1 = e).length = if t.sch.armed then 0 else 1

/-- R177, R178: an armed slot stays as it is until its event is emitted, a later SCH.SCHEDULE
replaces it, or SYS.TELZERO or reset zeroes it: there is no other cancellation. -/
def Obligations.SlotHeldUntilConsumed : Prop :=
  ∀ (m : Move) (s t : State), s.sch.armed = true → perform m s = .next t →
    (t.sch.armed = true ∧ t.sch.event = s.sch.event ∧ t.sch.deadline = s.sch.deadline) ∨
      (t.sch.armed = false ∧ t.events = s.events ++ [(s.sch.event, s.sys.cnt)]) ∨ m = .reset ∨
      ∃ w, m = .beat w ∧
        (decode w = .ok .sysTelzero ∨ ∃ a d, decode w = .ok (.schSchedule a d))
end

