-- ==== Sys2Proof/Laws/Memory.lean ====
section
/-! SUPPORT. The laws of element memories: what a read after a write gives, that every operation keeps
the canonical form, and that canonical memories that read alike are equal. -/

namespace Sys2Proof.Machine

variable {α : Type} {dflt : Nat → α}

@[simp] theorem Memory.read_nil (a : Nat) : Memory.read dflt ([] : Memory α) a = dflt a := rfl

/-- No address of the memory is at or below `a`. -/
theorem Memory.read_of_lt {m : Memory α} {a : Nat} (h : ∀ p ∈ m, a < p.1) :
    Memory.read dflt m a = dflt a := by
  induction m with
  | nil => rfl
  | cons p m ih =>
    have hp : a ≠ p.1 := Nat.ne_of_lt (h p (by simp))
    simp only [Memory.read, hp, if_false]
    exact ih fun q hq => h q (by simp [hq])

theorem Memory.read_insert (m : Memory α) (a b : Nat) (v : α) :
    Memory.read dflt (Memory.insert m a v) b = if b = a then v else Memory.read dflt m b := by
  induction m with
  | nil => simp [Memory.insert, Memory.read]
  | cons p m ih =>
    obtain ⟨c, w⟩ := p
    simp only [Memory.insert]
    split
    · simp [Memory.read]
    · split
      · subst_vars; simp only [Memory.read]; split <;> rfl
      · simp only [Memory.read, ih]
        split
        · split <;> first | rfl | omega
        · rfl

theorem Memory.mem_erase {m : Memory α} {a : Nat} {p : Nat × α} (h : p ∈ Memory.erase m a) :
    p ∈ m := by
  induction m with
  | nil => simp [Memory.erase] at h
  | cons q m ih =>
    simp only [Memory.erase] at h
    split at h
    · simp [ih h]
    · rcases List.mem_cons.1 h with h | h
      · simp [h]
      · simp [ih h]

theorem Memory.mem_insert {m : Memory α} {a : Nat} {v : α} {p : Nat × α}
    (h : p ∈ Memory.insert m a v) : p = (a, v) ∨ p ∈ m := by
  induction m with
  | nil => simpa [Memory.insert] using h
  | cons q m ih =>
    simp only [Memory.insert] at h
    split at h
    · simpa using h
    · split at h
      · rcases List.mem_cons.1 h with h | h
        · exact .inl h
        · simp [h]
      · rcases List.mem_cons.1 h with h | h
        · simp [h]
        · rcases ih h with h | h
          · exact .inl h
          · simp [h]

theorem Memory.read_erase (m : Memory α) (a b : Nat) :
    Memory.read dflt (Memory.erase m a) b = if b = a then dflt a else Memory.read dflt m b := by
  induction m with
  | nil => simp only [Memory.erase, Memory.read]; split <;> simp_all
  | cons p m ih =>
    obtain ⟨c, w⟩ := p
    simp only [Memory.erase]
    split
    · subst_vars
      rw [ih]
      by_cases hb : b = c
      · simp [hb]
      · simp [Memory.read, hb]
    · simp only [Memory.read, ih]
      split
      · split <;> first | rfl | omega
      · rfl

theorem Memory.pairwise_erase {m : Memory α} (hm : m.Pairwise fun p q => p.1 < q.1) (a : Nat) :
    (Memory.erase m a).Pairwise fun p q => p.1 < q.1 := by
  induction m with
  | nil => exact hm
  | cons p m ih =>
    rw [List.pairwise_cons] at hm
    simp only [Memory.erase]
    split
    · exact ih hm.2
    · exact List.pairwise_cons.2 ⟨fun q hq => hm.1 q (Memory.mem_erase hq), ih hm.2⟩

theorem Memory.pairwise_insert {m : Memory α} (hm : m.Pairwise fun p q => p.1 < q.1) (a : Nat)
    (v : α) : (Memory.insert m a v).Pairwise fun p q => p.1 < q.1 := by
  induction m with
  | nil => simp [Memory.insert]
  | cons p m ih =>
    obtain ⟨c, w⟩ := p
    have hp := List.pairwise_cons.1 hm
    simp only [Memory.insert]
    split
    · rename_i hac
      refine List.pairwise_cons.2 ⟨fun q hq => ?_, hm⟩
      rcases List.mem_cons.1 hq with rfl | hq
      · exact hac
      · exact Nat.lt_trans hac (hp.1 q hq)
    · split
      · subst_vars; exact List.pairwise_cons.2 ⟨hp.1, hp.2⟩
      · refine List.pairwise_cons.2 ⟨fun q hq => ?_, ih hp.2⟩
        rcases Memory.mem_insert hq with rfl | hq
        · show c < a; omega
        · exact hp.1 q hq

variable [DecidableEq α]

/-- A read after a write: the written element at its address, the old one elsewhere. -/
theorem Memory.read_write (m : Memory α) (a b : Nat) (v : α) :
    Memory.read dflt (Memory.write dflt m a v) b = if b = a then v else Memory.read dflt m b := by
  unfold Memory.write
  split
  · rename_i hv; rw [Memory.read_erase, hv]
  · exact Memory.read_insert m a b v

/-- A write keeps the canonical form. -/
theorem Memory.wf_write {m : Memory α} (hm : Memory.wf dflt m) (a : Nat) (v : α) :
    Memory.wf dflt (Memory.write dflt m a v) := by
  unfold Memory.write
  split
  · exact ⟨Memory.pairwise_erase hm.1 a, fun p hp => hm.2 p (Memory.mem_erase hp)⟩
  · refine ⟨Memory.pairwise_insert hm.1 a v, fun p hp => ?_⟩
    rcases Memory.mem_insert hp with rfl | hp
    · assumption
    · exact hm.2 p hp

omit [DecidableEq α] in
/-- The empty memory is canonical. -/
theorem Memory.wf_nil : Memory.wf dflt ([] : Memory α) := ⟨List.Pairwise.nil, by simp⟩

omit [DecidableEq α] in
/-- A canonical memory gives its entries when read. -/
theorem Memory.read_of_mem {m : Memory α} (hm : m.Pairwise fun p q => p.1 < q.1) {p : Nat × α}
    (hp : p ∈ m) : Memory.read dflt m p.1 = p.2 := by
  induction m with
  | nil => simp at hp
  | cons q m ih =>
    rw [List.pairwise_cons] at hm
    rcases List.mem_cons.1 hp with rfl | hp
    · simp [Memory.read]
    · have hne : p.1 ≠ q.1 := Nat.ne_of_gt (hm.1 p hp)
      simpa [Memory.read, hne] using ih hm.2 hp

omit [DecidableEq α] in
/-- Canonical memories that read alike are equal data. -/
theorem Memory.ext_of_wf {m n : Memory α} (hm : Memory.wf dflt m) (hn : Memory.wf dflt n)
    (h : ∀ a, Memory.read dflt m a = Memory.read dflt n a) : m = n := by
  induction m generalizing n with
  | nil =>
    cases n with
    | nil => rfl
    | cons q n =>
      have := h q.1
      rw [Memory.read_of_mem hn.1 (p := q) (by simp), Memory.read_nil] at this
      exact absurd this.symm (hn.2 q (by simp))
  | cons p m ih =>
    have hpm := List.pairwise_cons.1 hm.1
    cases n with
    | nil =>
      have := h p.1
      rw [Memory.read_of_mem hm.1 (p := p) (by simp), Memory.read_nil] at this
      exact absurd this (hm.2 p (by simp))
    | cons q n =>
      have hqn := List.pairwise_cons.1 hn.1
      have hp := h p.1
      have hq := h q.1
      rw [Memory.read_of_mem hm.1 (p := p) (by simp)] at hp
      rw [Memory.read_of_mem hn.1 (p := q) (by simp)] at hq
      have h1 : ¬ p.1 < q.1 := fun hlt => hm.2 p (by simp) (by
        rw [hp]
        refine Memory.read_of_lt fun r hr => ?_
        rcases List.mem_cons.1 hr with rfl | hr
        · exact hlt
        · exact Nat.lt_trans hlt (hqn.1 r hr))
      have h2 : ¬ q.1 < p.1 := fun hlt => hn.2 q (by simp) (by
        rw [← hq]
        refine Memory.read_of_lt fun r hr => ?_
        rcases List.mem_cons.1 hr with rfl | hr
        · exact hlt
        · exact Nat.lt_trans hlt (hpm.1 r hr))
      have he : p.1 = q.1 := by omega
      have hv : p.2 = q.2 := by rw [hp, he, Memory.read_of_mem hn.1 (p := q) (by simp)]
      have hpq : p = q := Prod.ext he hv
      subst hpq
      congr 1
      refine ih ⟨hpm.2, fun r hr => hm.2 r (by simp [hr])⟩
        ⟨hqn.2, fun r hr => hn.2 r (by simp [hr])⟩ fun a => ?_
      by_cases ha : a = p.1
      · subst ha
        rw [Memory.read_of_lt hpm.1, Memory.read_of_lt hqn.1]
      · simpa [Memory.read, ha] using h a

end Sys2Proof.Machine
end

