-- ==== Sys2Proof/Laws/State.lean ====
section
/-! SUPPORT. The small lemmas of the shared operations: one per field of State per update, each true by
`rfl`, so that no proof unfolds a record update. -/

namespace Sys2Proof.Machine

open Sys2Proof

/-! ### emit -/

@[simp] theorem emit_events (e : Event) (s : State) :
    (emit e s).events = s.events ++ [(e, s.sys.cnt)] := rfl
@[simp] theorem emit_sys (e : Event) (s : State) : (emit e s).sys = s.sys := rfl
@[simp] theorem emit_phd (e : Event) (s : State) : (emit e s).phd = s.phd := rfl
@[simp] theorem emit_flt (e : Event) (s : State) : (emit e s).flt = s.flt := rfl
@[simp] theorem emit_tel (e : Event) (s : State) : (emit e s).tel = s.tel := rfl
@[simp] theorem emit_sch (e : Event) (s : State) : (emit e s).sch = s.sch := rfl
@[simp] theorem emit_settings (e : Event) (s : State) : (emit e s).settings = s.settings := rfl
@[simp] theorem emit_win (e : Event) (s : State) : (emit e s).win = s.win := rfl
@[simp] theorem emit_adcbuf (e : Event) (s : State) : (emit e s).adcbuf = s.adcbuf := rfl
@[simp] theorem emit_response (e : Event) (s : State) : (emit e s).response = s.response := rfl
@[simp] theorem emit_script (e : Event) (s : State) : (emit e s).script = s.script := rfl
@[simp] theorem emit_draws (e : Event) (s : State) : (emit e s).draws = s.draws := rfl
@[simp] theorem emit_adcEpoch (e : Event) (s : State) : (emit e s).adcEpoch = s.adcEpoch := rfl

/-! ### respond -/

@[simp] theorem respond_response (r : Resp) (d : Word) (s : State) :
    (respond r d s).response = some ⟨r, d⟩ := rfl
@[simp] theorem respond_sys (r : Resp) (d : Word) (s : State) : (respond r d s).sys = s.sys := rfl
@[simp] theorem respond_phd (r : Resp) (d : Word) (s : State) : (respond r d s).phd = s.phd := rfl
@[simp] theorem respond_flt (r : Resp) (d : Word) (s : State) : (respond r d s).flt = s.flt := rfl
@[simp] theorem respond_tel (r : Resp) (d : Word) (s : State) : (respond r d s).tel = s.tel := rfl
@[simp] theorem respond_sch (r : Resp) (d : Word) (s : State) : (respond r d s).sch = s.sch := rfl
@[simp] theorem respond_settings (r : Resp) (d : Word) (s : State) : (respond r d s).settings = s.settings := rfl
@[simp] theorem respond_win (r : Resp) (d : Word) (s : State) : (respond r d s).win = s.win := rfl
@[simp] theorem respond_adcbuf (r : Resp) (d : Word) (s : State) : (respond r d s).adcbuf = s.adcbuf := rfl
@[simp] theorem respond_events (r : Resp) (d : Word) (s : State) : (respond r d s).events = s.events := rfl
@[simp] theorem respond_script (r : Resp) (d : Word) (s : State) : (respond r d s).script = s.script := rfl
@[simp] theorem respond_draws (r : Resp) (d : Word) (s : State) : (respond r d s).draws = s.draws := rfl
@[simp] theorem respond_adcEpoch (r : Resp) (d : Word) (s : State) : (respond r d s).adcEpoch = s.adcEpoch := rfl

/-! ### respondOk -/

@[simp] theorem respondOk_response (s : State) :
    (respondOk s).response = some ⟨.ok, 0⟩ := rfl
@[simp] theorem respondOk_sys (s : State) : (respondOk s).sys = s.sys := rfl
@[simp] theorem respondOk_phd (s : State) : (respondOk s).phd = s.phd := rfl
@[simp] theorem respondOk_flt (s : State) : (respondOk s).flt = s.flt := rfl
@[simp] theorem respondOk_tel (s : State) : (respondOk s).tel = s.tel := rfl
@[simp] theorem respondOk_sch (s : State) : (respondOk s).sch = s.sch := rfl
@[simp] theorem respondOk_settings (s : State) : (respondOk s).settings = s.settings := rfl
@[simp] theorem respondOk_win (s : State) : (respondOk s).win = s.win := rfl
@[simp] theorem respondOk_adcbuf (s : State) : (respondOk s).adcbuf = s.adcbuf := rfl
@[simp] theorem respondOk_events (s : State) : (respondOk s).events = s.events := rfl
@[simp] theorem respondOk_script (s : State) : (respondOk s).script = s.script := rfl
@[simp] theorem respondOk_draws (s : State) : (respondOk s).draws = s.draws := rfl
@[simp] theorem respondOk_adcEpoch (s : State) : (respondOk s).adcEpoch = s.adcEpoch := rfl

/-! ### raiseError -/

@[simp] theorem raiseError_response (r : Resp) (s : State) :
    (raiseError r s).response = some ⟨r, 0⟩ := rfl
@[simp] theorem raiseError_sys (r : Resp) (s : State) : (raiseError r s).sys = s.sys := rfl
@[simp] theorem raiseError_phd (r : Resp) (s : State) : (raiseError r s).phd = s.phd := rfl
@[simp] theorem raiseError_flt (r : Resp) (s : State) : (raiseError r s).flt = s.flt := rfl
@[simp] theorem raiseError_tel (r : Resp) (s : State) : (raiseError r s).tel = s.tel := rfl
@[simp] theorem raiseError_sch (r : Resp) (s : State) : (raiseError r s).sch = s.sch := rfl
@[simp] theorem raiseError_settings (r : Resp) (s : State) : (raiseError r s).settings = s.settings := rfl
@[simp] theorem raiseError_win (r : Resp) (s : State) : (raiseError r s).win = s.win := rfl
@[simp] theorem raiseError_adcbuf (r : Resp) (s : State) : (raiseError r s).adcbuf = s.adcbuf := rfl
@[simp] theorem raiseError_events (r : Resp) (s : State) : (raiseError r s).events = s.events := rfl
@[simp] theorem raiseError_script (r : Resp) (s : State) : (raiseError r s).script = s.script := rfl
@[simp] theorem raiseError_draws (r : Resp) (s : State) : (raiseError r s).draws = s.draws := rfl
@[simp] theorem raiseError_adcEpoch (r : Resp) (s : State) : (raiseError r s).adcEpoch = s.adcEpoch := rfl

/-! ### writeWin -/

@[simp] theorem writeWin_win (k : Nat) (v : Int) (s : State) :
    (writeWin k v s).win = Memory.write winDefault s.win k v := rfl
@[simp] theorem writeWin_sys (k : Nat) (v : Int) (s : State) : (writeWin k v s).sys = s.sys := rfl
@[simp] theorem writeWin_phd (k : Nat) (v : Int) (s : State) : (writeWin k v s).phd = s.phd := rfl
@[simp] theorem writeWin_flt (k : Nat) (v : Int) (s : State) : (writeWin k v s).flt = s.flt := rfl
@[simp] theorem writeWin_tel (k : Nat) (v : Int) (s : State) : (writeWin k v s).tel = s.tel := rfl
@[simp] theorem writeWin_sch (k : Nat) (v : Int) (s : State) : (writeWin k v s).sch = s.sch := rfl
@[simp] theorem writeWin_settings (k : Nat) (v : Int) (s : State) : (writeWin k v s).settings = s.settings := rfl
@[simp] theorem writeWin_adcbuf (k : Nat) (v : Int) (s : State) : (writeWin k v s).adcbuf = s.adcbuf := rfl
@[simp] theorem writeWin_events (k : Nat) (v : Int) (s : State) : (writeWin k v s).events = s.events := rfl
@[simp] theorem writeWin_response (k : Nat) (v : Int) (s : State) : (writeWin k v s).response = s.response := rfl
@[simp] theorem writeWin_script (k : Nat) (v : Int) (s : State) : (writeWin k v s).script = s.script := rfl
@[simp] theorem writeWin_draws (k : Nat) (v : Int) (s : State) : (writeWin k v s).draws = s.draws := rfl
@[simp] theorem writeWin_adcEpoch (k : Nat) (v : Int) (s : State) : (writeWin k v s).adcEpoch = s.adcEpoch := rfl

/-! ### adcWrite -/

@[simp] theorem adcWrite_adcbuf (c : Config) (s : State) (p : Nat × BitVec 16) :
    (adcWrite c s p).adcbuf = Memory.write (adcDefault c s.adcEpoch) s.adcbuf p.1 p.2 := rfl
@[simp] theorem adcWrite_sys (c : Config) (s : State) (p : Nat × BitVec 16) : (adcWrite c s p).sys = s.sys := rfl
@[simp] theorem adcWrite_phd (c : Config) (s : State) (p : Nat × BitVec 16) : (adcWrite c s p).phd = s.phd := rfl
@[simp] theorem adcWrite_flt (c : Config) (s : State) (p : Nat × BitVec 16) : (adcWrite c s p).flt = s.flt := rfl
@[simp] theorem adcWrite_tel (c : Config) (s : State) (p : Nat × BitVec 16) : (adcWrite c s p).tel = s.tel := rfl
@[simp] theorem adcWrite_sch (c : Config) (s : State) (p : Nat × BitVec 16) : (adcWrite c s p).sch = s.sch := rfl
@[simp] theorem adcWrite_settings (c : Config) (s : State) (p : Nat × BitVec 16) : (adcWrite c s p).settings = s.settings := rfl
@[simp] theorem adcWrite_win (c : Config) (s : State) (p : Nat × BitVec 16) : (adcWrite c s p).win = s.win := rfl
@[simp] theorem adcWrite_events (c : Config) (s : State) (p : Nat × BitVec 16) : (adcWrite c s p).events = s.events := rfl
@[simp] theorem adcWrite_response (c : Config) (s : State) (p : Nat × BitVec 16) : (adcWrite c s p).response = s.response := rfl
@[simp] theorem adcWrite_script (c : Config) (s : State) (p : Nat × BitVec 16) : (adcWrite c s p).script = s.script := rfl
@[simp] theorem adcWrite_draws (c : Config) (s : State) (p : Nat × BitVec 16) : (adcWrite c s p).draws = s.draws := rfl
@[simp] theorem adcWrite_adcEpoch (c : Config) (s : State) (p : Nat × BitVec 16) : (adcWrite c s p).adcEpoch = s.adcEpoch := rfl

/-! ### push -/

@[simp] theorem push_phd (s : State) :
    (push s).phd = { s.phd with gates := gatesOf s.phd.armed s.phd.step s.phd.mode } := rfl
@[simp] theorem push_sys (s : State) : (push s).sys = s.sys := rfl
@[simp] theorem push_flt (s : State) : (push s).flt = s.flt := rfl
@[simp] theorem push_tel (s : State) : (push s).tel = s.tel := rfl
@[simp] theorem push_sch (s : State) : (push s).sch = s.sch := rfl
@[simp] theorem push_settings (s : State) : (push s).settings = s.settings := rfl
@[simp] theorem push_win (s : State) : (push s).win = s.win := rfl
@[simp] theorem push_adcbuf (s : State) : (push s).adcbuf = s.adcbuf := rfl
@[simp] theorem push_events (s : State) : (push s).events = s.events := rfl
@[simp] theorem push_response (s : State) : (push s).response = s.response := rfl
@[simp] theorem push_script (s : State) : (push s).script = s.script := rfl
@[simp] theorem push_draws (s : State) : (push s).draws = s.draws := rfl
@[simp] theorem push_adcEpoch (s : State) : (push s).adcEpoch = s.adcEpoch := rfl

/-! ### driverOff -/

@[simp] theorem driverOff_phd (s : State) :
    (driverOff s).phd = { s.phd with armed := false, dc := 0, gates := 0 } := rfl
@[simp] theorem driverOff_sys (s : State) : (driverOff s).sys = s.sys := rfl
@[simp] theorem driverOff_flt (s : State) : (driverOff s).flt = s.flt := rfl
@[simp] theorem driverOff_tel (s : State) : (driverOff s).tel = s.tel := rfl
@[simp] theorem driverOff_sch (s : State) : (driverOff s).sch = s.sch := rfl
@[simp] theorem driverOff_settings (s : State) : (driverOff s).settings = s.settings := rfl
@[simp] theorem driverOff_win (s : State) : (driverOff s).win = s.win := rfl
@[simp] theorem driverOff_adcbuf (s : State) : (driverOff s).adcbuf = s.adcbuf := rfl
@[simp] theorem driverOff_events (s : State) : (driverOff s).events = s.events := rfl
@[simp] theorem driverOff_response (s : State) : (driverOff s).response = s.response := rfl
@[simp] theorem driverOff_script (s : State) : (driverOff s).script = s.script := rfl
@[simp] theorem driverOff_draws (s : State) : (driverOff s).draws = s.draws := rfl
@[simp] theorem driverOff_adcEpoch (s : State) : (driverOff s).adcEpoch = s.adcEpoch := rfl

end Sys2Proof.Machine
end

