-- ==== Sys2Proof/Laws/Ops.lean ====
section
/-! SUPPORT. For each shared operation one lemma that says what it can do; the register map's two
directions; and that every memory operation keeps the canonical form. -/

namespace Sys2Proof.Machine

open Sys2Proof

/-! ### The move to come -/

theorem takeMove_cons {c : Config} {s : State} {m : Move} {rest : List Move}
    (h : s.script = m :: rest) :
    takeMove c s = (m, { s with script := rest, draws := s.draws + 1 }) := by
  simp [takeMove, h]

theorem takeMove_nil {c : Config} {s : State} (h : s.script = []) :
    takeMove c s = (c.envMove s.draws, { s with draws := s.draws + 1 }) := by
  simp [takeMove, h]

/-- Taking the move changes the model's own fields only. -/
theorem takeMove_state (c : Config) (s : State) :
    (takeMove c s).2 = { s with script := s.script.tail, draws := s.draws + 1 } := by
  cases h : s.script with
  | nil => rw [takeMove_nil h, ← h]; simp [h]
  | cons m rest => rw [takeMove_cons h]; simp

/-- The next move placed by `withFetchWord` is the beat of the word. -/
theorem step_withFetchWord (s : State) (nbits w : Nat) :
    step (s.withFetchWord nbits w) =
      perform (.beat (beatOfTableWord nbits w)) { s with draws := s.draws + 1 } := rfl

theorem perform_beat_of_decode {w : Beat} {i : Instr} (h : decode w = .ok i) (s : State) :
    perform (.beat w) s = exec i s := by
  simp [perform, h]

theorem perform_beat_of_illegal {w : Beat} {e : Illegal} (h : decode w = .error e) (s : State) :
    perform (.beat w) s = .next (illegalBeat s) := by
  simp [perform, h]

/-! ### The register map -/

theorem ofIndex_index (r : Reg) : Reg.ofIndex r.index = some r := by
  cases r with
  | set n => revert n; decide
  | _ => rfl

theorem index_of_ofIndex {a : BitVec 8} {r : Reg} (h : Reg.ofIndex a = some r) : r.index = a := by
  revert h; revert r; revert a; decide +revert

/-- Two states agree on every register but the listed ones when the register map's names do. -/
theorem regsKept_of_readReg {except : List Nat} {s t : State}
    (h : ∀ r : Reg, r.index.toNat ∉ except → readReg t r = readReg s r) : RegsKept except s t := by
  intro a ha
  unfold readIndex
  cases hr : Reg.ofIndex a with
  | none => rfl
  | some r => simp [h r (by rw [index_of_ofIndex hr]; exact ha)]

/-- A register is unmapped exactly where the index map has no entry. -/
theorem readIndex_eq_none {s : State} {a : BitVec 8} :
    readIndex s a = none ↔ Reg.ofIndex a = none := by
  simp [readIndex]

/-! ### Gates -/

theorem gatesOf_disarmed (st : CommStep) (m : DriveMode) : gatesOf false st m = 0 := rfl

/-- The gates of the table drive no floating phase and short no supply. -/
theorem gatesOf_safe (armed : Bool) (st : CommStep) (m : DriveMode) :
    hiState (gatesOf armed st m) (floatPhase st) = 0 ∧
      loState (gatesOf armed st m) (floatPhase st) = 0 ∧ NoShort (gatesOf armed st m) := by
  refine ⟨?_, ?_, fun p => ?_⟩
  · revert st; cases armed <;> cases m <;> decide
  · revert st; cases armed <;> cases m <;> decide
  · revert st; cases armed <;> cases m <;> cases p <;> decide

theorem gatesSafe_of_pushed {s : State} (h : GatesPushed s) : GatesSafe s := by
  unfold GatesSafe
  rw [show s.phd.gates = gatesOf s.phd.armed s.phd.step s.phd.mode from h]
  exact ⟨fun ha => by rw [ha]; rfl, gatesOf_safe _ _ _⟩

theorem gatesPushed_push (s : State) : GatesPushed (push s) := rfl

/-- `push()` changes nothing where the gates are already those of the table. -/
theorem push_of_gatesPushed {s : State} (h : GatesPushed s) : push s = s := by
  obtain ⟨_, phd, _⟩ := s
  cases phd
  simp only [GatesPushed] at h
  simp [push, ← h]

/-- `off()`: disarmed, no duty, every gate OFF, step, mode and frequency kept, nothing else
touched. -/
theorem driverOff_eq (s : State) :
    driverOff s = { s with phd := { s.phd with armed := false, dc := 0, gates := 0 } } := rfl

/-- `failsafe()`: the driver off, the sticky bit, the response FAILSAFE. -/
theorem failsafe_eq (s : State) :
    failsafe s =
      { s with
        sys := { s.sys with phdFailsafe := true }
        phd := { s.phd with armed := false, dc := 0, gates := 0 }
        response := some ⟨.failSafe, 0⟩ } := rfl

/-! ### Memory -/

/-- Reading WIN after a write: the value at the slot written, as before elsewhere. -/
theorem winAt_writeWin (k j : Nat) (v : Int) (s : State) :
    winAt (writeWin k v s) j = if j = k then v else winAt s j :=
  Memory.read_write s.win k j v

theorem writeWin_wf {s : State} (h : Memory.wf winDefault s.win) (k : Nat) (v : Int) :
    Memory.wf winDefault (writeWin k v s).win :=
  Memory.wf_write h k v

/-- Reading ADCBUF after a write: the value at the element written, as before elsewhere. -/
theorem adcAt_adcWrite (c : Config) (s : State) (p : Nat × BitVec 16) (n : Nat) :
    adcAt c (adcWrite c s p) n = if n = p.1 then p.2 else adcAt c s n :=
  Memory.read_write s.adcbuf p.1 n p.2

theorem adcWrite_wf {c : Config} {s : State}
    (h : Memory.wf (adcDefault c s.adcEpoch) s.adcbuf) (p : Nat × BitVec 16) :
    Memory.wf (adcDefault c (adcWrite c s p).adcEpoch) (adcWrite c s p).adcbuf :=
  Memory.wf_write h p.1 p.2

/-- What a run of ADCBUF writes can do: nothing but change elements of ADCBUF. -/
theorem foldl_adcWrite_eq (c : Config) (ps : List (Nat × BitVec 16)) (s : State) :
    ps.foldl (adcWrite c) s = { s with adcbuf := (ps.foldl (adcWrite c) s).adcbuf } := by
  induction ps generalizing s with
  | nil => rfl
  | cons p ps ih => rw [List.foldl_cons, ih]; rfl

theorem foldl_adcWrite_wf {c : Config} (ps : List (Nat × BitVec 16)) {s : State}
    (h : Memory.wf (adcDefault c s.adcEpoch) s.adcbuf) :
    Memory.wf (adcDefault c (ps.foldl (adcWrite c) s).adcEpoch)
      (ps.foldl (adcWrite c) s).adcbuf := by
  induction ps generalizing s with
  | nil => exact h
  | cons p ps ih => exact ih (adcWrite_wf h p)

/-- An element no write of the run names reads as before. -/
theorem adcAt_foldl_of_notMem (c : Config) (ps : List (Nat × BitVec 16)) (s : State) (n : Nat)
    (h : ∀ p ∈ ps, p.1 ≠ n) : adcAt c (ps.foldl (adcWrite c) s) n = adcAt c s n := by
  induction ps generalizing s with
  | nil => rfl
  | cons p ps ih =>
    rw [List.foldl_cons, ih _ fun q hq => h q (List.mem_cons_of_mem _ hq), adcAt_adcWrite,
      if_neg fun e => h p List.mem_cons_self e.symm]

/-- An element all of whose writes give one value, with at least one write, reads that value. -/
theorem adcAt_foldl_of_mem (c : Config) (ps : List (Nat × BitVec 16)) (s : State) (n : Nat)
    (v : BitVec 16) (hm : (n, v) ∈ ps) (hv : ∀ p ∈ ps, p.1 = n → p.2 = v) :
    adcAt c (ps.foldl (adcWrite c) s) n = v := by
  induction ps generalizing s with
  | nil => exact absurd hm List.not_mem_nil
  | cons p ps ih =>
    rw [List.foldl_cons]
    by_cases h : (n, v) ∈ ps
    · exact ih _ h fun q hq => hv q (List.mem_cons_of_mem _ hq)
    · have hp : p = (n, v) := ((List.mem_cons.mp hm).resolve_right h).symm
      rw [adcAt_foldl_of_notMem, adcAt_adcWrite, hp, if_pos rfl]
      intro q hq e
      have : q = (n, v) := Prod.ext e (hv q (List.mem_cons_of_mem _ hq) e)
      exact h (this ▸ hq)

/-- The converter's samples fit in `ADC_W` bits. -/
theorem truncSample_lt (c : Config) (v : BitVec 16) : (truncSample c v).toNat < 2 ^ c.adcW := by
  have h : v.toNat % 2 ^ c.adcW < 2 ^ c.adcW := Nat.mod_lt _ (by positivity)
  have h16 : (2 : Nat) ^ c.adcW ≤ 2 ^ 16 := Nat.pow_le_pow_right (by decide) c.adcW_range.2
  simp only [truncSample, BitVec.toNat_ofNat]
  rw [Nat.mod_eq_of_lt (lt_of_lt_of_le h h16)]
  exact h

theorem truncSample_toNat (c : Config) (v : BitVec 16) :
    (truncSample c v).toNat = v.toNat % 2 ^ c.adcW := by
  have h : v.toNat % 2 ^ c.adcW < 2 ^ c.adcW := Nat.mod_lt _ (by positivity)
  have h16 : (2 : Nat) ^ c.adcW ≤ 2 ^ 16 := Nat.pow_le_pow_right (by decide) c.adcW_range.2
  simp only [truncSample, BitVec.toNat_ofNat]
  exact Nat.mod_eq_of_lt (lt_of_lt_of_le h h16)

/-- Elements of ADCBUF have distinct addresses. -/
theorem adcAddr_inj {c : Config} {h h' : Half} {f f' ch ch' : Nat} (hf : f < c.nf)
    (hf' : f' < c.nf) (hc : ch < 4) (hc' : ch' < 4)
    (e : adcAddr c h f ch = adcAddr c h' f' ch') : h = h' ∧ f = f' ∧ ch = ch' := by
  unfold adcAddr at e
  have hch : ch = ch' := by omega
  have hrow : h.val * c.nf + f = h'.val * c.nf + f' := by omega
  have hh : h = h' := by
    rcases h with ⟨_ | _ | n, hn⟩ <;> rcases h' with ⟨_ | _ | m, hm⟩ <;> simp at * <;> omega
  subst hh
  exact ⟨rfl, by omega, hch⟩

/-- The memories right after reset list nothing, in canonical form. -/
theorem reset_wf (c : Config) :
    Memory.wf winDefault State.reset.win ∧
      Memory.wf (adcDefault c State.reset.adcEpoch) State.reset.adcbuf :=
  ⟨Memory.wf_nil, Memory.wf_nil⟩

/-- `boxcar` keeps WIN in canonical form; every other operation of a frame leaves WIN alone. -/
theorem boxcar_wf {s : State} (h : Memory.wf winDefault s.win) (d : Int) :
    Memory.wf winDefault (boxcar d s).win :=
  writeWin_wf h _ d

/-- The ADC agent keeps ADCBUF in canonical form. -/
theorem adcFill_wf {c : Config} {s : State} (hs : Memory.wf (adcDefault c s.adcEpoch) s.adcbuf)
    (h : Half) (frames : List Frame) :
    Memory.wf (adcDefault c (adcFill c h frames s).adcEpoch) (adcFill c h frames s).adcbuf := by
  unfold adcFill setBatchFlag
  split <;> exact foldl_adcWrite_wf _ hs

/-! ### SCH.FIRE and the event port -/

/-- Everything SCH.FIRE can do: emit the stored event and disarm, or nothing. -/
theorem schFire_cases (s : State) :
    (s.sch.armed = true ∧
      schFire s =
        { s with
          sch := { s.sch with armed := false }
          events := s.events ++ [(s.sch.event, s.sys.cnt)] }) ∨
      (s.sch.armed = false ∧ schFire s = s) := by
  cases h : s.sch.armed <;> simp [schFire, h, emit]

end Sys2Proof.Machine
end

