-- ==== Sys2Proof/Laws/Flt.lean ====
section
/-! SUPPORT. The filter step by step (`42_bemf_filter.md` R140 to R151): what each part of FLT.SAMPLE
writes, and that the rest stays. -/

namespace Sys2Proof.Machine

open Sys2Proof

/-- What a part of FLT.SAMPLE can write: the filter's registers, the status and glitch registers,
`TEL.LAST_ZCD`, WIN and the event port. -/
structure FilterFrame (s t : State) : Prop where
  phd : t.phd = s.phd
  sch : t.sch = s.sch
  settings : t.settings = s.settings
  adcbuf : t.adcbuf = s.adcbuf
  response : t.response = s.response
  script : t.script = s.script
  draws : t.draws = s.draws
  adcEpoch : t.adcEpoch = s.adcEpoch
  cnt : t.sys.cnt = s.sys.cnt
  phdFailsafe : t.sys.phdFailsafe = s.sys.phdFailsafe
  pidBadmode : t.sys.pidBadmode = s.sys.pidBadmode
  scalar : t.flt.scalar = s.flt.scalar
  tel : t.tel = { s.tel with lastZcd := t.tel.lastZcd }

theorem FilterFrame.refl (s : State) : FilterFrame s s :=
  ⟨rfl, rfl, rfl, rfl, rfl, rfl, rfl, rfl, rfl, rfl, rfl, rfl, rfl⟩

theorem FilterFrame.trans {s t u : State} (h : FilterFrame s t) (k : FilterFrame t u) :
    FilterFrame s u :=
  ⟨k.phd.trans h.phd, k.sch.trans h.sch, k.settings.trans h.settings, k.adcbuf.trans h.adcbuf,
    k.response.trans h.response, k.script.trans h.script, k.draws.trans h.draws,
    k.adcEpoch.trans h.adcEpoch, k.cnt.trans h.cnt, k.phdFailsafe.trans h.phdFailsafe,
    k.pidBadmode.trans h.pidBadmode, k.scalar.trans h.scalar, by rw [k.tel, h.tel]⟩

theorem repeatCheck_frame (h : Half) (s : State) : FilterFrame s (repeatCheck h s) := by
  constructor <;> first | rfl | (simp only [repeatCheck]; split <;> rfl)

theorem stepChange_frame (c : Config) (st : CommStep) (s : State) :
    FilterFrame s (stepChange c st s) := by
  constructor <;> rfl

theorem currentIir_frame (c : Config) (i : Nat) (s : State) :
    FilterFrame s (currentIir c i s) := by
  constructor <;> rfl

theorem boxcar_frame (d : Int) (s : State) : FilterFrame s (boxcar d s) := by
  constructor <;> rfl

/-- Everything the zero-crossing test can do: with `FLT.BELOW` noted, emit ZCD and latch the
crossing, or nothing. -/
theorem zeroCross_cases (c : Config) (s : State) :
    (crossed c (noteBelow s) = true ∧
      zeroCross c s =
        { s with
          flt := { s.flt with below := s.flt.below || sumBelow s, det := true }
          tel := { s.tel with lastZcd := s.sys.cnt }
          events := s.events ++ [(.zcd, s.sys.cnt)] }) ∨
      (crossed c (noteBelow s) = false ∧
        zeroCross c s = { s with flt := { s.flt with below := s.flt.below || sumBelow s } }) := by
  cases h : crossed c (noteBelow s) <;> simp only [zeroCross, h]
  · exact .inr ⟨trivial, rfl⟩
  · exact .inl ⟨trivial, rfl⟩

theorem zeroCross_frame (c : Config) (s : State) : FilterFrame s (zeroCross c s) := by
  rcases zeroCross_cases c s with ⟨_, e⟩ | ⟨_, e⟩ <;> rw [e] <;> constructor <;> rfl

/-- Everything the battery smoother can do: update `FLT.BAT_ACC`. -/
theorem battery_eq (c : Config) (st : CommStep) (va vb vc : Nat) (s : State) :
    battery c st va vb vc s =
      { s with flt := { s.flt with batAcc := (battery c st va vb vc s).flt.batAcc } } := by
  unfold battery
  split <;> rfl

theorem battery_frame (c : Config) (st : CommStep) (va vb vc : Nat) (s : State) :
    FilterFrame s (battery c st va vb vc s) := by
  rw [battery_eq]
  constructor <;> rfl

/-- The part of a frame that the detected flag drops (R150). -/
def frameCore (c : Config) (d : Int) (s : State) : State :=
  if s.flt.det then s else zeroCross c (boxcar d s)

theorem frameCore_frame (c : Config) (d : Int) (s : State) : FilterFrame s (frameCore c d s) := by
  unfold frameCore
  split
  · exact .refl s
  · exact (boxcar_frame d s).trans (zeroCross_frame c _)

/-- A frame is the current smoother, the boxcar with the crossing test, the battery smoother. -/
theorem filterFrame_eq (c : Config) (st : CommStep) (va vb vc i : Nat) (s : State) :
    filterFrame c st va vb vc i s =
      battery c st va vb vc
        (frameCore c (phaseDiff c s st va vb vc) (currentIir c i s)) := rfl

theorem filterFrame_frame (c : Config) (st : CommStep) (va vb vc i : Nat) (s : State) :
    FilterFrame s (filterFrame c st va vb vc i s) :=
  (currentIir_frame c i s).trans ((frameCore_frame c _ _).trans (battery_frame c st va vb vc _))

/-- A relation that every frame keeps, that holds of a state and itself and composes, holds of a
batch: the induction over the frames of a half, once. -/
theorem foldl_sampleFrame_induction {c : Config} {h : Half} {st : CommStep}
    (R : State → State → Prop) (hr : ∀ s, R s s) (ht : ∀ s t u, R s t → R t u → R s u)
    (hf : ∀ s f, R s (sampleFrame c h st s f)) (l : List Nat) (s : State) :
    R s (l.foldl (sampleFrame c h st) s) := by
  induction l generalizing s with
  | nil => exact hr s
  | cons f l ih => exact ht _ _ _ (hf s f) (ih _)

/-- Everything FLT.SAMPLE writes lies within the filter's frame. -/
theorem fltSample_frame (c : Config) (h : Half) (s : State) : FilterFrame s (fltSample c h s) := by
  unfold fltSample
  simp only
  split
  · exact repeatCheck_frame h s
  · refine (repeatCheck_frame h s).trans ?_
    unfold sampleBatch
    refine .trans ?_ (foldl_sampleFrame_induction FilterFrame FilterFrame.refl
      (fun _ _ _ => FilterFrame.trans) (fun s f => filterFrame_frame c _ _ _ _ _ s) _ _)
    split
    · exact stepChange_frame c _ _
    · exact .refl _

/-- The registers the filter's frame leaves as they were. -/
theorem FilterFrame.regsKept {s t : State} (h : FilterFrame s t) :
    RegsKept [0x01, 0x02, 0x20, 0x21, 0x22, 0x23, 0x24, 0x26, 0x27, 0x33, 0x34, 0x3A] s t := by
  refine regsKept_of_readReg fun r hr => ?_
  cases r <;> first | (exfalso; revert hr; decide) | skip
  all_goals simp only [readReg, h.phd, h.sch, h.cnt, h.settings, h.scalar]
  all_goals rw [h.tel]

theorem FilterFrame.adcKept {s t : State} (h : FilterFrame s t) : AdcKept s t :=
  fun n => by simp only [adcAt, h.adcbuf, h.adcEpoch]

theorem FilterFrame.scriptKept {s t : State} (h : FilterFrame s t) : ScriptKept s t :=
  ⟨h.script, h.draws, h.adcEpoch⟩

/-- The repeat-pointer check does not touch what the blanking test reads. -/
@[simp] theorem blanked_repeatCheck (c : Config) (h : Half) (s : State) :
    blanked c (repeatCheck h s) = blanked c s := by
  unfold blanked repeatCheck
  split <;> rfl

/-- Everything a FLTSVC step can do: FLT.SAMPLE on the full half, else on the half-full one, else
nothing (R142). -/
theorem fltsvc_cases (c : Config) (s : State) :
    (s.flt.ff = true ∧ fltsvc c s = fltSample c 1 s) ∨
      (s.flt.ff = false ∧ s.flt.hf = true ∧ fltsvc c s = fltSample c 0 s) ∨
        (s.flt.ff = false ∧ s.flt.hf = false ∧ fltsvc c s = s) := by
  cases hff : s.flt.ff <;> cases hhf : s.flt.hf <;> simp [fltsvc, hff, hhf]

theorem fltsvc_frame (c : Config) (s : State) : FilterFrame s (fltsvc c s) := by
  rcases fltsvc_cases c s with ⟨_, e⟩ | ⟨_, _, e⟩ | ⟨_, _, e⟩ <;> rw [e]
  · exact fltSample_frame c 1 s
  · exact fltSample_frame c 0 s
  · exact .refl s

/-- One frame keeps WIN in canonical form. -/
theorem filterFrame_win_wf {c : Config} {st : CommStep} {va vb vc i : Nat} {s : State}
    (h : Memory.wf winDefault s.win) :
    Memory.wf winDefault (filterFrame c st va vb vc i s).win := by
  rw [filterFrame_eq, battery_eq]
  unfold frameCore
  split
  · exact h
  · rcases zeroCross_cases c (boxcar (phaseDiff c s st va vb vc) (currentIir c i s)) with
      ⟨_, e⟩ | ⟨_, e⟩ <;> rw [e] <;> exact boxcar_wf (s := currentIir c i s) h _

/-- FLT.SAMPLE keeps WIN in canonical form. -/
theorem fltSample_win_wf {c : Config} {h : Half} {s : State} (hs : Memory.wf winDefault s.win) :
    Memory.wf winDefault (fltSample c h s).win := by
  unfold fltSample
  simp only
  split
  · exact hs
  · unfold sampleBatch
    refine foldl_sampleFrame_induction
      (fun s t => Memory.wf winDefault s.win → Memory.wf winDefault t.win) (fun _ => id)
      (fun _ _ _ hst htu hs => htu (hst hs)) (fun s f => filterFrame_win_wf) _ _ ?_
    split
    · exact hs
    · exact hs

end Sys2Proof.Machine
end

