-- ==== Sys2Proof/Laws/PerInstr.lean ====
section
/-! SUPPORT. The family EncodeFields: what every instruction's beat is, instruction by instruction: its
reserved field is 0, and where its operands are legal at decode it selects the row of the opcode
table that its mnemonic names. -/

namespace Sys2Proof

/-! ### The fields of a beat built from its fields -/

/-- A beat as a number: its fields at their places. -/
theorem toNat_mkBeat (u f : BitVec 4) (a : BitVec 8) (imm : Word) :
    (mkBeat u f a imm).toNat =
      u.toNat * 2 ^ 60 + f.toNat * 2 ^ 56 + a.toNat * 2 ^ 48 + imm.toNat := by
  have hf := f.isLt
  have ha := a.isLt
  have hi := imm.isLt
  change BitVec.toNat (u ++ f ++ a ++ 0#16 ++ imm : BitVec (4 + 4 + 8 + 16 + 32)) = _
  simp only [BitVec.toNat_append]
  rw [← Nat.shiftLeft_add_eq_or_of_lt hf, ← Nat.shiftLeft_add_eq_or_of_lt ha,
    ← Nat.shiftLeft_add_eq_or_of_lt (by decide : (0#16).toNat < 2 ^ 16),
    ← Nat.shiftLeft_add_eq_or_of_lt hi]
  simp only [Nat.shiftLeft_eq, BitVec.toNat_ofNat]
  omega

theorem unitField_mkBeat (u f : BitVec 4) (a : BitVec 8) (imm : Word) :
    unitField (mkBeat u f a imm) = u := by
  apply BitVec.eq_of_toNat_eq
  have := u.isLt; have := f.isLt; have := a.isLt; have := imm.isLt
  simp only [unitField, BitVec.extractLsb'_toNat, toNat_mkBeat, Nat.shiftRight_eq_div_pow]
  omega

theorem funcField_mkBeat (u f : BitVec 4) (a : BitVec 8) (imm : Word) :
    funcField (mkBeat u f a imm) = f := by
  apply BitVec.eq_of_toNat_eq
  have := u.isLt; have := f.isLt; have := a.isLt; have := imm.isLt
  simp only [funcField, BitVec.extractLsb'_toNat, toNat_mkBeat, Nat.shiftRight_eq_div_pow]
  omega

theorem aField_mkBeat (u f : BitVec 4) (a : BitVec 8) (imm : Word) :
    aField (mkBeat u f a imm) = a := by
  apply BitVec.eq_of_toNat_eq
  have := u.isLt; have := f.isLt; have := a.isLt; have := imm.isLt
  simp only [aField, BitVec.extractLsb'_toNat, toNat_mkBeat, Nat.shiftRight_eq_div_pow]
  omega

theorem rsvField_mkBeat (u f : BitVec 4) (a : BitVec 8) (imm : Word) :
    rsvField (mkBeat u f a imm) = 0 := by
  apply BitVec.eq_of_toNat_eq
  have := u.isLt; have := f.isLt; have := a.isLt; have := imm.isLt
  simp only [rsvField, BitVec.extractLsb'_toNat, toNat_mkBeat, Nat.shiftRight_eq_div_pow,
    BitVec.ofNat_eq_ofNat, BitVec.toNat_ofNat]
  omega

theorem immField_mkBeat (u f : BitVec 4) (a : BitVec 8) (imm : Word) :
    immField (mkBeat u f a imm) = imm := by
  apply BitVec.eq_of_toNat_eq
  have := u.isLt; have := f.isLt; have := a.isLt; have := imm.isLt
  simp only [immField, BitVec.extractLsb'_toNat, toNat_mkBeat, Nat.shiftRight_eq_div_pow]
  omega

/-- Bit `k` of a beat from its fields' bits. -/
theorem getLsbD_mkBeat (u f : BitVec 4) (a : BitVec 8) (imm : Word) (k : Nat) :
    (mkBeat u f a imm).getLsbD k =
      if k < 32 then imm.getLsbD k
      else if k < 48 then false
      else if k < 56 then a.getLsbD (k - 48)
      else if k < 60 then f.getLsbD (k - 56)
      else u.getLsbD (k - 60) := by
  change BitVec.getLsbD (u ++ f ++ a ++ 0#16 ++ imm : BitVec (4 + 4 + 8 + 16 + 32)) k = _
  simp only [BitVec.getLsbD_append, BitVec.getLsbD_zero]
  split_ifs <;> first | rfl | omega

/-- A beat under a mask: its fields under the mask's fields. -/
theorem mkBeat_and (u f : BitVec 4) (a : BitVec 8) (imm : Word) (m : Beat) :
    mkBeat u f a imm &&& m =
      mkBeat (u &&& unitField m) (f &&& funcField m) (a &&& aField m) (imm &&& immField m) := by
  apply BitVec.eq_of_getLsbD_eq
  intro k hk
  simp only [BitVec.getLsbD_and, getLsbD_mkBeat, unitField, funcField, aField, immField,
    BitVec.getLsbD_extractLsb']
  split_ifs with h1 h2 h3 h4
  · simp [h1]
  · simp
  · simp [show k - 48 < 8 by omega, show 48 + (k - 48) = k by omega]
  · simp [show k - 56 < 4 by omega, show 56 + (k - 56) = k by omega]
  · simp [show k - 60 < 4 by omega, show 60 + (k - 60) = k by omega]

/-! ### The family -/

/-- A beat whose operands vanish under a row's mask selects the row with its unit and function. -/
theorem selects_of_operands {u f : BitVec 4} {a : BitVec 8} {imm : Word} {r : OpcodeRow}
    (ha : a &&& aField r.mask = 0) (hi : imm &&& immField r.mask = 0)
    (h : mkBeat (u &&& unitField r.mask) (f &&& funcField r.mask) 0 0 = r.pattern) :
    r.Selects (mkBeat u f a imm) := by
  rw [OpcodeRow.Selects, mkBeat_and, ha, hi, h]

/-- An operand field the row's mask leaves out. -/
theorem and_of_mask_zero {n : Nat} {x m : BitVec n} (h : m = 0) : x &&& m = 0 := by
  simp [h]

/-- A half legal at decode vanishes under the mask of FLT.SAMPLE. -/
theorem half_and_mask {a m : BitVec 8} (h : HalfOk a) (hm : m = 0xFE) : a &&& m = 0 := by
  subst hm; revert h; revert a; decide

/-- An event code legal at decode vanishes under the mask of its rows. -/
theorem event_and_mask {a m : BitVec 8} (h : EventOk a) (hm : m = 0xF0) : a &&& m = 0 := by
  subst hm; revert h; revert a; decide

namespace Laws.EncodeFields

/-- The beat's reserved field is 0, and a well-formed instruction's beat selects the row of the
opcode table with its mnemonic (`30_encoding.md` R90, R93). -/
def Statement (i : Instr) : Prop :=
  rsvField (encode i) = 0 ∧
    (i.WellFormed → ∃ r ∈ opcodeTable, r.mnemonic = mnemonic i ∧ r.Selects (encode i))

theorem sysNop : Statement .sysNop :=
  ⟨rsvField_mkBeat _ _ _ _, fun _ => ⟨opcodeTable[0], by simp [opcodeTable], rfl,
    selects_of_operands (by decide) (by decide) (by decide)⟩⟩

theorem sysRdreg (a : BitVec 8) : Statement (.sysRdreg a) :=
  ⟨rsvField_mkBeat _ _ _ _, fun _ => ⟨opcodeTable[1], by simp [opcodeTable], rfl,
    selects_of_operands (and_of_mask_zero (by decide)) (by decide) (by decide)⟩⟩

theorem sysWrreg (a : BitVec 8) (imm : Word) : Statement (.sysWrreg a imm) :=
  ⟨rsvField_mkBeat _ _ _ _, fun _ => ⟨opcodeTable[2], by simp [opcodeTable], rfl,
    selects_of_operands (and_of_mask_zero (by decide)) (and_of_mask_zero (by decide)) (by decide)⟩⟩

theorem sysTelzero : Statement .sysTelzero :=
  ⟨rsvField_mkBeat _ _ _ _, fun _ => ⟨opcodeTable[3], by simp [opcodeTable], rfl,
    selects_of_operands (by decide) (by decide) (by decide)⟩⟩

theorem pidStep : Statement .pidStep :=
  ⟨rsvField_mkBeat _ _ _ _, fun _ => ⟨opcodeTable[4], by simp [opcodeTable], rfl,
    selects_of_operands (by decide) (by decide) (by decide)⟩⟩

theorem fltSample (a : BitVec 8) : Statement (.fltSample a) :=
  ⟨rsvField_mkBeat _ _ _ _, fun h => ⟨opcodeTable[5], by simp [opcodeTable], rfl,
    selects_of_operands (half_and_mask (of_decide_eq_true h) (by decide))
      (by decide) (by decide)⟩⟩

theorem schSchedule (a : BitVec 8) (imm : Word) : Statement (.schSchedule a imm) :=
  ⟨rsvField_mkBeat _ _ _ _, fun h => ⟨opcodeTable[6], by simp [opcodeTable], rfl,
    selects_of_operands (event_and_mask (of_decide_eq_true h) (by decide))
      (and_of_mask_zero (by decide)) (by decide)⟩⟩

theorem schInject (a : BitVec 8) : Statement (.schInject a) :=
  ⟨rsvField_mkBeat _ _ _ _, fun h => ⟨opcodeTable[7], by simp [opcodeTable], rfl,
    selects_of_operands (event_and_mask (of_decide_eq_true h) (by decide))
      (by decide) (by decide)⟩⟩

theorem schFire : Statement .schFire :=
  ⟨rsvField_mkBeat _ _ _ _, fun _ => ⟨opcodeTable[8], by simp [opcodeTable], rfl,
    selects_of_operands (by decide) (by decide) (by decide)⟩⟩

theorem phdInit (a : BitVec 8) (imm : Word) : Statement (.phdInit a imm) :=
  ⟨rsvField_mkBeat _ _ _ _, fun _ => ⟨opcodeTable[9], by simp [opcodeTable], rfl,
    selects_of_operands (and_of_mask_zero (by decide)) (and_of_mask_zero (by decide)) (by decide)⟩⟩

theorem phdOff : Statement .phdOff :=
  ⟨rsvField_mkBeat _ _ _ _, fun _ => ⟨opcodeTable[10], by simp [opcodeTable], rfl,
    selects_of_operands (by decide) (by decide) (by decide)⟩⟩

theorem phdArm : Statement .phdArm :=
  ⟨rsvField_mkBeat _ _ _ _, fun _ => ⟨opcodeTable[11], by simp [opcodeTable], rfl,
    selects_of_operands (by decide) (by decide) (by decide)⟩⟩

theorem phdSetmode (a : BitVec 8) : Statement (.phdSetmode a) :=
  ⟨rsvField_mkBeat _ _ _ _, fun _ => ⟨opcodeTable[12], by simp [opcodeTable], rfl,
    selects_of_operands (and_of_mask_zero (by decide)) (by decide) (by decide)⟩⟩

theorem phdSetduty (imm : Word) : Statement (.phdSetduty imm) :=
  ⟨rsvField_mkBeat _ _ _ _, fun _ => ⟨opcodeTable[13], by simp [opcodeTable], rfl,
    selects_of_operands (by decide) (and_of_mask_zero (by decide)) (by decide)⟩⟩

theorem phdSetstate (a : BitVec 8) : Statement (.phdSetstate a) :=
  ⟨rsvField_mkBeat _ _ _ _, fun _ => ⟨opcodeTable[14], by simp [opcodeTable], rfl,
    selects_of_operands (and_of_mask_zero (by decide)) (by decide) (by decide)⟩⟩

theorem phdNext : Statement .phdNext :=
  ⟨rsvField_mkBeat _ _ _ _, fun _ => ⟨opcodeTable[15], by simp [opcodeTable], rfl,
    selects_of_operands (by decide) (by decide) (by decide)⟩⟩

end Laws.EncodeFields

end Sys2Proof
end

