-- ==== Sys2Proof/Laws/Pid.lean ====
section
/-! SUPPORT. The control law case by case (`41_pid_control_law.md` R120 to R131): what PID.STEP is in each
of its five cases, and the range of the duty it writes. -/

namespace Sys2Proof.Machine

open Sys2Proof

/-! ### The duty clamp (R126) -/

theorem clampDc_range (c : Config) (s : State) (x : Int) :
    0 ≤ clampDc c s x ∧ clampDc c s x ≤ c.hwMaxDc := by
  unfold clampDc
  omega

/-- The clamped duty fits `TEL.DUTY`. -/
theorem setTelDuty_toNat (c : Config) (x : Int) (s : State) :
    ((setTelDuty c x s).tel.duty.toNat : Int) = clampDc c s x := by
  have h := clampDc_range c s x
  have h1 := c.hwMaxDc_le
  have h2 := c.dcOne_range.2
  simp only [setTelDuty, BitVec.toNat_ofInt]
  omega

/-- `forward()`: the driver's duty is the law's, the gates are pushed, nothing else moves. -/
theorem forward_eq (s : State) :
    forward s =
      { s with
        phd :=
          { s.phd with
            dc := s.tel.duty
            gates := gatesOf s.phd.armed s.phd.step s.phd.mode } } := rfl

/-! ### Integration and braking (R127, R129) -/

/-- `integrate` writes `TEL.ERR_ACCUM` only. -/
theorem integrate_eq (e : Int) (s : State) :
    integrate e s =
      { s with tel := { s.tel with errAccum := (integrate e s).tel.errAccum } } := by
  unfold integrate
  split <;> rfl

/-- The integration limit fits the accumulator. -/
theorem integral_limit_range {s : State} (hk : 0 < setting s setKi) :
    max (tdiv (setting s setILim) (setting s setKi)) 0 < 2 ^ 31 := by
  have h1 : setting s setILim < 2 ^ 31 := by
    have := BitVec.toInt_lt (x := s.settings.get setILim)
    simpa [setting, s32] using this
  unfold tdiv
  rcases Int.lt_or_le (setting s setILim) 0 with hi | hi
  · have h3 := Int.tdiv_nonneg (a := -setting s setILim) (b := setting s setKi) (by omega)
      (by omega)
    rw [Int.neg_tdiv] at h3
    omega
  · have := Int.tdiv_le_self (setting s setKi) hi
    omega

/-- With a positive gain the accumulator is the clamped sum. -/
theorem integrate_errAccum {e : Int} {s : State} (hk : 0 < setting s setKi) :
    s32 (integrate e s).tel.errAccum =
      clampInt (s32 s.tel.errAccum + e)
        (-max (tdiv (setting s setILim) (setting s setKi)) 0)
        (max (tdiv (setting s setILim) (setting s setKi)) 0) := by
  have := integral_limit_range hk
  simp only [integrate, hk, if_true, clampInt, u32, s32]
  rw [BitVec.toInt_ofInt, Int.bmod_def]
  split <;> omega

/-- `brake` writes the drive mode and the gates only. -/
theorem brake_eq (e : Int) (s : State) :
    brake e s =
      { s with
        phd := { s.phd with mode := (brake e s).phd.mode, gates := (brake e s).phd.gates } } := by
  unfold brake
  split_ifs <;> rfl

/-- The mode braking selects: the braking mode, the default mode, or no change. -/
theorem brake_mode (e : Int) (s : State) :
    (brake e s).phd.mode =
      if setting s setBraking = 1 then
        if e < -setting s setBrakeOnErr then .lowOnPwmBoth
        else if e > -setting s setBrakeOffErr then .lowOnPwmHigh
        else s.phd.mode
      else s.phd.mode := by
  unfold brake
  split_ifs <;> rfl

/-! ### The five cases (R120) -/

/-- The state past the lock gate: `TEL.LOCKED` written with the gate's value. -/
def withLock (l : Bool) (s : State) : State := { s with tel := { s.tel with locked := l } }

theorem pidStep_limited {c : Config} {s : State} (h : overCurrent s = true) :
    pidStep c s = forward (setTelDuty c ((s.tel.duty.toNat : Int) - maxDcChange s) s) := by
  rw [pidStep, if_pos h]

theorem pidStep_unlocked {c : Config} {s : State} (h : overCurrent s = false)
    (hl : lockGate s = false) : pidStep c s = withLock false s := by
  simp only [pidStep, h, Bool.false_eq_true, if_false, lockedMode, hl]
  exact if_neg (show ¬lockGate (withLock false s) = true by
    rw [show lockGate (withLock false s) = lockGate s from rfl, hl]; decide)

theorem pidStep_locked {c : Config} {s : State} (h : overCurrent s = false)
    (hl : lockGate s = true) : pidStep c s = controlMode c (withLock true s) := by
  simp only [pidStep, h, Bool.false_eq_true, if_false, lockedMode, hl]
  exact if_pos (show lockGate (withLock true s) = true from hl)

theorem controlMode_open {c : Config} {s : State} (h : setting s setMode = 0) :
    controlMode c s = forward (setTelDuty c (s32 s.tel.setpoint) s) := by
  rw [controlMode, if_pos h]

theorem controlMode_closed {c : Config} {s : State} (h : setting s setMode = 1) :
    controlMode c s = forward (closedMode c s) := by
  rw [controlMode, if_neg (by rw [h]; decide), if_pos h]

theorem controlMode_unrecognised {c : Config} {s : State} (h0 : setting s setMode ≠ 0)
    (h1 : setting s setMode ≠ 1) : controlMode c s = badMode s := by
  rw [controlMode, if_neg h0, if_neg h1]

end Sys2Proof.Machine
end

