-- ==== Sys2Proof/Tests/Slice0.lean ====
section
/-! SUPPORT. Tests: the words of `95_test_vectors.md` written out and decoded, each well-formedness check
refusing an ill-formed term, one step of each operation and agent against the spec's vectors, and a
witness for the hypotheses of each statement. Expected results are the spec's vectors (named V-…) or
the worked example of the rule named. -/

namespace Sys2Proof.Tests

open Sys2Proof Sys2Proof.Machine

/-! ### Well-formedness: an ill-formed term for each check -/

theorem test_fltSample_half_2_illFormed : ¬ (Instr.fltSample 2).WellFormed := by decide
theorem test_schSchedule_event_10_illFormed : ¬ (Instr.schSchedule 10 0).WellFormed := by decide
theorem test_schInject_event_10_illFormed : ¬ (Instr.schInject 10).WellFormed := by decide
theorem test_fltSample_half_1_wellFormed : (Instr.fltSample 1).WellFormed := by decide
theorem test_schSchedule_event_9_wellFormed : (Instr.schSchedule 9 0).WellFormed := by decide
theorem test_schInject_event_9_wellFormed : (Instr.schInject 9).WellFormed := by decide

/-! ### V-ENC-1: every operation's word, read and written -/

theorem test_decode_sysNop : decode 0x0000000000000000 = .ok .sysNop := by decide
theorem test_decode_sysRdreg : decode 0x0130000000000000 = .ok (.sysRdreg 0x30) := by decide
theorem test_decode_sysWrreg :
    decode 0x02320000FFFFFF38 = .ok (.sysWrreg 0x32 0xFFFFFF38) := by decide
theorem test_decode_sysTelzero : decode 0x0300000000000000 = .ok .sysTelzero := by decide
theorem test_decode_pidStep : decode 0x1000000000000000 = .ok .pidStep := by decide
theorem test_decode_fltSample : decode 0x2001000000000000 = .ok (.fltSample 1) := by decide
theorem test_decode_schSchedule :
    decode 0x3007000000000190 = .ok (.schSchedule 7 400) := by decide
theorem test_decode_schInject : decode 0x3103000000000000 = .ok (.schInject 3) := by decide
theorem test_decode_schFire : decode 0x3200000000000000 = .ok .schFire := by decide
theorem test_decode_phdInit : decode 0x4000000000003E80 = .ok (.phdInit 0 16000) := by decide
theorem test_decode_phdOff : decode 0x4100000000000000 = .ok .phdOff := by decide
theorem test_decode_phdArm : decode 0x4200000000000000 = .ok .phdArm := by decide
theorem test_decode_phdSetmode : decode 0x4302000000000000 = .ok (.phdSetmode 2) := by decide
theorem test_decode_phdSetduty : decode 0x44000000000001A4 = .ok (.phdSetduty 420) := by decide
theorem test_decode_phdSetstate : decode 0x4505000000000000 = .ok (.phdSetstate 5) := by decide
theorem test_decode_phdNext : decode 0x4600000000000000 = .ok .phdNext := by decide

theorem test_encode_words :
    encode (.sysRdreg 0x30) = 0x0130000000000000 ∧
      encode (.sysWrreg 0x32 0xFFFFFF38) = 0x02320000FFFFFF38 ∧
      encode (.fltSample 1) = 0x2001000000000000 ∧
      encode (.schSchedule 7 400) = 0x3007000000000190 ∧
      encode (.phdSetduty 420) = 0x44000000000001A4 := by decide

/-- A word of V-ENC-1 and one of V-ENC-2 in the table's numbering. -/
theorem test_decodeTableWord :
    decodeTableWord 64 0x02320000FFFFFF38 = some (.sysWrreg 0x32 0xFFFFFF38) ∧
      decodeTableWord 64 0x300A000000000000 = none := by decide

/-! ### V-ENC-2: illegal beats, by the case that refuses them -/

theorem test_illegal_reservedBits :
    decode 0x0000000100000000 = .error .reservedBits ∧
      decode 0x0000800000000000 = .error .reservedBits := by decide
theorem test_illegal_unknownUnit :
    decode 0x5000000000000000 = .error .unknownOperation ∧
      decode 0xF000000000000000 = .error .unknownOperation := by decide
theorem test_illegal_unknownFunction :
    decode 0x0400000000000000 = .error .unknownOperation ∧
      decode 0x1100000000000000 = .error .unknownOperation ∧
      decode 0x2100000000000000 = .error .unknownOperation ∧
      decode 0x3300000000000000 = .error .unknownOperation ∧
      decode 0x4700000000000000 = .error .unknownOperation := by decide
theorem test_illegal_unusedField :
    decode 0x0000000000000001 = .error .unusedField ∧
      decode 0x1001000000000000 = .error .unusedField ∧
      decode 0x0130000000000001 = .error .unusedField ∧
      decode 0x4401000000000000 = .error .unusedField ∧
      decode 0x4600000000000001 = .error .unusedField := by decide
theorem test_illegal_badHalf : decode 0x2002000000000000 = .error .badHalf := by decide
theorem test_illegal_badEvent :
    decode 0x300A000000000000 = .error .badEvent ∧
      decode 0x310F000000000000 = .error .badEvent ∧
      decode 0x3110000000000000 = .error .badEvent := by decide

/-! ### Codes and text -/

/-- R92, R246: the response and event codes. -/
theorem test_codes :
    [Resp.ok, .illegal, .badReg, .failSafe].map respCode = [0, 1, 2, 3] ∧
      eventCode .zcd = 4 ∧ eventOperand 9 = some .auto ∧ eventOperand 10 = none := by decide

/-- R97, R98: the textual form and the pseudo-instructions. -/
theorem test_pseudo :
    pseudoSet (.set setMinDc) 100 = .sysWrreg 0x88 100 ∧ pseudoGet .telDuty = .sysRdreg 0x30 ∧
      pseudoZero = .sysTelzero ∧ assemblerText (.phdSetduty 250) = "PHD.SETDUTY 250" := by decide

/-! ### Small states -/

/-- The reset state with the counter at `n`. -/
def atTime (n : Word) : State :=
  { State.reset with sys := { State.reset.sys with cnt := n } }

/-- Set one settings register. -/
def withSetting (n : Setting) (v : Int) (s : State) : State :=
  { s with settings := s.settings.set n (u32 v) }

/-- The base state of the PID vectors (V-PID). -/
def pidBase : State :=
  { State.reset with
    settings :=
      #v[8, 4, 2, 1000, 0, 4000, 500, 20, 50, 900, 0, 0, 0, 0, 0, 0, 0, 0, 0, 0, 20000, 0, 0, 0, 1,
        0, 0]
    tel :=
      { State.reset.tel with duty := 400, speed := 4800, setpoint := 5000, consecDet := 12 }
    flt := { State.reset.flt with curAcc := 640000, batAcc := 196608000 }
    phd := { State.reset.phd with armed := true, dc := 400, gates := 0x042 } }

/-- The base state with the current accumulator at `v`. -/
def pidCurrent (v : Word) : State :=
  { pidBase with flt := { pidBase.flt with curAcc := v } }

/-- The base state with another setpoint. -/
def pidSetpoint (v : Int) : State :=
  { pidBase with tel := { pidBase.tel with setpoint := u32 v } }

/-- A filter of window 3 past blanking, with three entries, below zero so far (V-FLT-3 after its
fourth batch). -/
def fltState : State :=
  { atTime 2000 with
    flt :=
      { State.reset.flt with
        below := true
        lastHalf := some 1
        lastStep := some 0
        len := 3
        sum := u32 (-50)
        ptr := 1
        navg := 4
        curAcc := 3955 }
    win := [(0, 30), (1, -60), (2, -20)] }

/-- `fltState` in the last microsecond of a blanking window (R143's example of 1099). -/
def fltBlanked : State :=
  { fltState with
    sys := { fltState.sys with cnt := 1099 }
    tel := { fltState.tel with lastSwap := 1000 } }

/-- `fltState` after the detection of V-FLT-3. -/
def fltDetected : State :=
  { fltState with flt := { fltState.flt with det := true } }

/-- A TIMEOUT scheduled for 1400, at counter value `n` (V-SCH-1). -/
def schState (n : Word) : State :=
  { atTime n with sch := { armed := true, cmpIf := false, event := .timeout, deadline := 1400 } }

/-- `schState` with the match pending. -/
def schPending : State := { schState 1403 with sch := { (schState 1403).sch with cmpIf := true } }

/-- Armed at step 4 in mode 1 with duty 300 (V-PHD-3). -/
def phdState : State :=
  { atTime 10 with
    phd :=
      { armed := true, step := 4, mode := .lowOnPwmLow, dc := 300, gates := 0xC04,
        pwmFreq := 16000 } }

/-! ### SYS -/

/-- V-SYS-1. -/
theorem test_rdreg_reset :
    [0x00, 0x01, 0x10, 0x12, 0x20, 0x21, 0x22, 0x25, 0x33, 0x40, 0x80, 0x9A].map
        (fun a => readIndex State.reset (BitVec.ofNat 8 a)) =
      [0, 0, 0, 0, 0x7C, 1, 0, 25, 0, 0, 0, 0].map some := by decide

/-- V-SYS-2. -/
theorem test_rdreg_unmapped :
    [0x03, 0x14, 0x28, 0x3B, 0x42, 0x7F, 0x9B, 0xFF].map
        (fun a => exec (.sysRdreg (BitVec.ofNat 8 a)) State.reset) =
      List.replicate 8 (.next { State.reset with response := some ⟨.badReg, 0⟩ }) := by rfl

/-- V-SYS-3: an RO register, a view, an unmapped index. -/
theorem test_wrreg_refused :
    [0x00, 0x11, 0x12, 0x33, 0x38, 0x9B].map
        (fun a => exec (.sysWrreg (BitVec.ofNat 8 a) 5) State.reset) =
      List.replicate 6 (.next { State.reset with response := some ⟨.badReg, 0⟩ }) := by rfl

/-- V-SYS-4: TEL.DUTY keeps 16 bits, and the driver's duty does not move. -/
theorem test_wrreg_telDuty :
    ((writeIndex State.reset 0x30 0x12345).map fun t => (t.tel.duty, t.phd.dc)) =
      some (0x2345, 0) := by decide

/-- V-SYS-5 on the scheduled TIMEOUT: the descriptor is zeroed, nothing is emitted. -/
theorem test_telzero :
    readReg (telZero (schState 1000)) .schCtrl = 0 ∧ (telZero (schState 1000)).events = [] ∧
      (telZero (schState 1000)).sys.cnt = 1000 ∧ (telZero phdState).phd = phdState.phd := by decide

/-- V-SYS-6. -/
theorem test_nop :
    exec .sysNop phdState = .next { phdState with response := some ⟨.ok, 0⟩ } := by rfl

/-! ### PID, with the reference configuration -/

/-- V-PID-1 and V-PID-10: duty, driver's duty, accumulator, lock. -/
theorem test_pid_closed :
    ((pidStep {} pidBase).tel.duty, (pidStep {} pidBase).phd.dc,
        s32 (pidStep {} pidBase).tel.errAccum, (pidStep {} pidBase).tel.locked) =
      (420, 420, 200, true) ∧
    ((pidStep {} (pidSetpoint 4000)).tel.duty,
        s32 (pidStep {} (pidSetpoint 4000)).tel.errAccum) = (380, -800) := by decide

/-- V-PID-2, V-PID-3 (the test is strict), V-PID-17. -/
theorem test_pid_other_cases :
    (pidStep {} (pidCurrent (20001 * 128))).tel.duty = 380 ∧
      (pidStep {} (pidCurrent (20000 * 128 + 127))).tel.duty = 420 ∧
      (pidStep {} (withSetting setMode 2 pidBase)).events = [(.fault, 0)] ∧
      (pidStep {} (withSetting setMode 2 pidBase)).tel.duty = 400 := by decide

/-! ### FLT, with the reference configuration -/

/-- V-FLT-3, the fifth batch: d = +80 detects. -/
theorem test_flt_detects :
    (filterFrame {} 0 3000 100 1429 100 fltState).flt.det = true ∧
      s32 (filterFrame {} 0 3000 100 1429 100 fltState).flt.sum = 90 ∧
      (filterFrame {} 0 3000 100 1429 100 fltState).flt.curAcc = 4925 ∧
      (filterFrame {} 0 3000 100 1429 100 fltState).events = [(.zcd, 2000)] ∧
      winAt (filterFrame {} 0 3000 100 1429 100 fltState) 1 = 80 := by decide

/-- V-FLT-2: a batch at counter value 99 is blanked, at 100 it is processed. -/
theorem test_flt_blanking :
    readReg (Machine.fltsvc {} (adcFill {} 0 [⟨3000, 100, 1400, 50⟩] (atTime 99))) .fltCtrl =
        0x070 ∧
      readReg (Machine.fltsvc {} (adcFill {} 1 [⟨3000, 100, 1400, 50⟩] (atTime 100))) .fltCtrl =
        0x004 ∧
      (Machine.fltsvc {} (adcFill {} 1 [⟨3000, 100, 1400, 50⟩] (atTime 100))).flt.sum = 100 ∧
      (Machine.fltsvc {} (adcFill {} 1 [⟨3000, 100, 1400, 50⟩] (atTime 100))).flt.len = 64 := by
  decide

/-- V-FLT-9: two frames a batch, the second dropped after the first detects, its current smoothed. -/
theorem test_flt_two_frames :
    let c : Config := { nf := 2 }
    let s := adcFill c 0 [⟨3000, 100, 1429, 200⟩, ⟨3000, 100, 1414, 200⟩]
      { fltState with flt := { fltState.flt with curAcc := 0 } }
    s32 (Machine.fltsvc c s).flt.sum = 90 ∧ (Machine.fltsvc c s).flt.navg = 5 ∧
      (Machine.fltsvc c s).flt.curAcc = 3985 ∧
      (Machine.fltsvc c s).events = [(.zcd, 2000)] := by decide

/-- V-FLT-1 (Scenario C, a clamped bucket, the two ends of the clamp). -/
theorem test_window_length :
    [(5000, 25), (100000, 25), (0, 25), (5000, 0), (5000, 457)].map
      (fun p => windowLength {} p.1 p.2) = [3, 2, 64, 1, 63] := by decide

/-- V-FLT-10: without ZC_EDGE a positive full window is enough. -/
theorem test_zc_edge :
    let s := { fltState with flt := { fltState.flt with below := false } }
    (filterFrame {} 0 3000 100 1429 0 s).flt.det = false ∧
      (filterFrame { zcEdge := false } 0 3000 100 1429 0 s).flt.det = true := by decide

/-! ### SCH, the clock and the service agents -/

/-- V-SCH-1: the control word and the deadline. -/
theorem test_schedule :
    readReg (schedule .timeout 400 (atTime 1000)) .schCtrl = 0x71 ∧
      (schedule .timeout 400 (atTime 1000)).sch.deadline = 1400 := by decide

/-- V-SCH-8: injection leaves the slot. -/
theorem test_inject :
    (exec (.schInject 8) (schState 7) : Host.Outcome State Fault Refusal) =
      .next { schState 7 with events := [(.stop, 7)], response := some ⟨.ok, 0⟩ } := by rfl

/-- R176's example, and V-SCH-1's last line: not armed, nothing. -/
theorem test_fire :
    readReg (Machine.schFire (schState 1400)) .schCtrl = 0x70 ∧
      (Machine.schFire (schState 1400)).events = [(.timeout, 1400)] ∧
      Machine.schFire (atTime 1400) = atTime 1400 := by decide

/-- R173's and R174's examples, V-SCH-6's fallback and V-SCH-9's match while unarmed. -/
theorem test_agents :
    readReg (Machine.tick (schState 1399)) .schCtrl = 0x73 ∧
      (Machine.schsvc schPending).events = [(.timeout, 1403)] ∧
      readReg (Machine.schsvc schPending) .schCtrl = 0x70 ∧
      (Machine.tmo (schState 1010)).events = [(.timeout, 1010)] ∧
      readReg (Machine.tick (atTime 0xFFFFFFFF)) .schCtrl = 0x02 := by decide

/-! ### PHD -/

/-- R190's example. -/
theorem test_init :
    exec (.phdInit 0 16000) phdState =
      .next
        { phdState with
          phd :=
            { armed := false, step := 0, mode := .lowOnPwmHigh, dc := 0, gates := 0,
              pwmFreq := 16000 }
          response := some ⟨.ok, 0⟩ } := by rfl

/-- V-PHD-3: each invalid operand fails safe, step and mode kept, the last swap not latched. -/
theorem test_failsafe :
    exec (.phdSetmode 6) phdState = .next (failsafe phdState) ∧
      exec (.phdSetstate 255) phdState = .next (failsafe phdState) ∧
      exec (.phdInit 6 5) phdState = .next (failsafe phdState) ∧
      readReg (failsafe phdState) .phdCtrl = 0x18 ∧ readReg (failsafe phdState) .sysStat = 1 := by
  refine ⟨rfl, rfl, rfl, ?_⟩
  decide

/-- V-PHD-4 and R194: the bound is DC_ONE, not HW_MAX_DC. -/
theorem test_setduty_bound :
    dutyOperand {} 1000 = some 1000 ∧ dutyOperand {} 951 = some 951 ∧ dutyOperand {} 1001 = none := by
  decide

/-- R196's example: step 5 wraps to 0. -/
theorem test_next :
    exec .phdNext
        { atTime 9000 with
          phd := { armed := true, step := 5, mode := .lowOnPwmHigh, dc := 0, gates := 0x240,
                   pwmFreq := 0 } } =
      .next
        { atTime 9000 with
          phd := { armed := true, step := 0, mode := .lowOnPwmHigh, dc := 0, gates := 0x042,
                   pwmFreq := 0 }
          tel := { State.reset.tel with lastSwap := 9000 }
          response := some ⟨.ok, 0⟩ } := by rfl

/-- R195's example, R192's, R193's, R191's. -/
theorem test_phd_gates :
    (commutate 3 { atTime 7000 with phd := { (atTime 7000).phd with armed := true } }).phd.gates =
        0x024 ∧
      gatesOf true 0 .lowOnPwmHigh = 0x042 ∧ gatesOf true 0 .lowOnPwmBoth = 0x04E ∧
      gatesOf true 5 .highOnPwmBoth = 0x1B0 ∧ (driverOff phdState).phd.gates = 0 := by decide

/-- The arms of ARM, OFF, SETMODE, SETSTATE and SETDUTY. -/
theorem test_phd_exec :
    exec .phdArm (atTime 0) =
        .next { atTime 0 with
                phd := { (atTime 0).phd with armed := true, gates := 0x042 }
                response := some ⟨.ok, 0⟩ } ∧
      exec .phdOff phdState =
        .next { phdState with
                phd := { phdState.phd with armed := false, dc := 0, gates := 0 }
                response := some ⟨.ok, 0⟩ } ∧
      exec (.phdSetmode 2) phdState =
        .next { phdState with
                phd := { phdState.phd with mode := .lowOnPwmBoth, gates := 0xE04 }
                response := some ⟨.ok, 0⟩ } := ⟨rfl, rfl, rfl⟩

/-! ### The step -/

/-- A placed word runs as the very next step. -/
theorem test_withFetchWord :
    step (State.reset.withFetchWord 64 0x4200000000000000) =
      exec .phdArm { State.reset with draws := 1 } := by rfl

/-- V-ENC-2 at the step: an illegal beat changes nothing but the response. -/
theorem test_step_illegal :
    step { State.reset with script := [.beat 0x5000000000000000] } =
      .next { State.reset with draws := 1, response := some ⟨.illegal, 0⟩ } := by rfl

/-! ### Witnesses: the hypotheses of each statement are met

Each names its statement, and gives for each clause a state and operands, at the bounds of the
clause where it has bounds. -/

theorem witness_DecodeEncodeRoundTrip :
    (Instr.fltSample 0).WellFormed ∧ (Instr.fltSample 1).WellFormed ∧
      (Instr.schSchedule 9 0xFFFFFFFF).WellFormed ∧ (Instr.schInject 9).WellFormed ∧
      (Instr.sysWrreg 0xFF 0xFFFFFFFF).WellFormed := by decide

theorem witness_EncodeDecodeRoundTrip :
    decode 0x2001000000000000 = .ok (.fltSample 1) ∧
      decode 0x30090000FFFFFFFF = .ok (.schSchedule 9 0xFFFFFFFF) := by decide

theorem witness_DecoderAgreesWithOpcodeTable :
    decode 0x3109000000000000 = .ok (.schInject 9) ∧
      ∃ r ∈ opcodeTable, r.Selects 0x3109000000000000 ∧ r.mnemonic = "SCH.INJECT" ∧
        (aField 0x3109000000000000).toNat ≤ 9 := by
  refine ⟨by decide, opcodeTable[7], by simp [opcodeTable], by decide, rfl, by decide⟩

theorem witness_IllegalBeatsExactly :
    Claim.illegalCase 0x0000000100000000 = some .reservedBits ∧
      Claim.illegalCase 0x4700000000000000 = some .unknownOperation ∧
      Claim.illegalCase 0x0000000000000001 = some .unusedField ∧
      Claim.illegalCase 0x2002000000000000 = some .badHalf ∧
      Claim.illegalCase 0x300A000000000000 = some .badEvent ∧
      Claim.illegalCase 0x3009000000000000 = none := by decide

theorem witness_StepRunsDecodedBeat :
    ({ State.reset with script := [.beat 0x4200000000000000] } : State).script =
        .beat 0x4200000000000000 :: [] ∧
      decode 0x4200000000000000 = .ok .phdArm ∧ State.reset.script = [] := by decide

/-- The reset state with a move placed: it meets the invariants. -/
theorem filterInv_placed (ms : List Move) : FilterInv { State.reset with script := ms } where
  inv :=
    { duty_le := Nat.zero_le _
      gates_pushed := rfl
      len_range := ⟨Nat.le_refl 1, Config.impl.maxRunningFilter_range.1⟩
      ptr_lt := Nat.zero_lt_one
      curAcc_lt := Nat.two_pow_pos 31
      batAcc_le := Nat.zero_le _
      win_range := fun _ => Nat.zero_le _
      adc_range := fun _ => truncSample_lt _ _
      win_wf := Memory.wf_nil
      adc_wf := Memory.wf_nil }
  ptr_of_filling := fun _ => rfl
  sum_eq := rfl

theorem witness_StepKeepsInvariant :
    ∃ s t, Inv s ∧ s.script = [.tick] ∧ step s = .next t :=
  ⟨_, _, (filterInv_placed [.tick]).inv, rfl, rfl⟩

theorem witness_StepKeepsWindowSum :
    ∃ s t, FilterInv s ∧ s.script = [.fltsvc] ∧ step s = .next t :=
  ⟨_, _, filterInv_placed [.fltsvc], rfl, rfl⟩

theorem witness_GatesStaySafe :
    ∃ s t, GatesPushed s ∧ s.phd.armed = true ∧ step s = .next t :=
  ⟨{ phdState with script := [.beat 0x4600000000000000] }, _, rfl, rfl, rfl⟩

theorem witness_CounterWrittenByClockOnly :
    (∃ t, perform .tick (atTime 0xFFFFFFFF) = .next t) ∧
      (∃ t, perform .reset (atTime 5) = .next t) ∧ ∃ t, perform .tmo (atTime 5) = .next t :=
  ⟨⟨_, rfl⟩, ⟨_, rfl⟩, ⟨_, rfl⟩⟩

/-- A state with every status bit set and the glitch counter at its end. -/
def statusState : State :=
  { State.reset with
    sys := { cnt := 0, phdFailsafe := true, pidBadmode := true, adcGlitch := true,
             glitchCnt := 0xFFFFFFFF } }

theorem witness_StatusBitsSticky :
    Move.fltsvc ≠ .reset ∧ statusState.sys.phdFailsafe = true ∧
      statusState.sys.pidBadmode = true ∧ statusState.sys.adcGlitch = true ∧
      ∃ t, perform .fltsvc statusState = .next t :=
  ⟨by decide, rfl, rfl, rfl, _, rfl⟩

theorem witness_HostRegistersWrittenByHostOnly :
    Move.fltsvc ≠ .reset ∧ (∀ w a v, Move.fltsvc = .beat w → decode w ≠ .ok (.sysWrreg a v)) ∧
      (∀ w, Move.fltsvc = .beat w → decode w ≠ .ok .sysTelzero) ∧
      ∃ t, perform .fltsvc fltState = .next t :=
  ⟨by decide, fun _ _ _ h => (nomatch h), fun _ h => (nomatch h), _, rfl⟩

theorem witness_MemoryWriters :
    Move.tick ≠ .reset ∧ Move.tick ≠ .fltsvc ∧
      (∀ w a, Move.tick = .beat w → decode w ≠ .ok (.fltSample a)) ∧
      (∀ h frames, Move.tick ≠ .adc h frames) ∧ ∃ t, perform .tick fltState = .next t :=
  ⟨by decide, by decide, fun _ _ h => (nomatch h), fun _ _ h => (nomatch h), _, rfl⟩

/-- One move of each kind that emits, and one that does not. -/
theorem witness_EventsPerMove :
    (∃ t, perform .tmo (schState 5) = .next t ∧ t.events = [(.timeout, 5)]) ∧
      (∃ t, perform (.beat 0x3109000000000000) (schState 5) = .next t ∧
        t.events = [(.auto, 5)]) ∧
      ∃ t, perform .tick (schState 5) = .next t ∧ t.events = [] :=
  ⟨⟨_, rfl, rfl⟩, ⟨_, rfl, rfl⟩, ⟨_, rfl, rfl⟩⟩

theorem witness_PortsNeverReadBack :
    ∃ t, exec .schFire (schState 5) = .next t ∧ t.events = [(.timeout, 5)] :=
  ⟨_, rfl, rfl⟩

theorem witness_RdregResult :
    ([0x02, 0x03, 0x20, 0x25, 0x3A, 0x3B, 0x7F, 0x80, 0x9A, 0x9B, 0xFF].map fun a =>
        (Claim.registerWords State.reset).lookup a) =
      [some 0, none, some 0x7C, some 25, some 0, none, none, some 0, some 0, none, none] := by
  decide

theorem witness_WrregResult :
    Claim.writable 0x25 ∧ Claim.writable 0x30 ∧ Claim.writable 0x37 ∧ Claim.writable 0x80 ∧
      Claim.writable 0x9A ∧ ¬ Claim.writable 0x9B ∧ ¬ Claim.writable 0x33 ∧
      ¬ Claim.writable 0x24 ∧ ¬ Claim.writable 0x7F := by
  unfold Claim.writable
  omega

theorem witness_TelzeroResult :
    ∃ a : BitVec 8, a.toNat = 0x3A ∧ 0x30 ≤ a.toNat ∧ a.toNat ≤ 0x3A := ⟨0x3A, by decide⟩

/-- The bounds of the operands that the driver refuses: 5 and 6, and a duty above every DC_ONE. -/
theorem witness_phd_operands :
    (5#8).toNat ≤ 5 ∧ ¬ (6#8).toNat ≤ 5 ∧ (0#32).toNat ≤ Config.impl.dcOne ∧
      ¬ (0xFFFFFFFF#32).toNat ≤ Config.impl.dcOne := by
  refine ⟨by decide, by decide, Nat.zero_le _, ?_⟩
  have := Config.impl.dcOne_range.2
  simp only [BitVec.toNat_ofNat]
  omega

theorem witness_SixNextsReturn : GatesPushed phdState := by
  unfold GatesPushed
  decide

theorem witness_PidCurrentLimiting :
    Claim.overLimit (pidCurrent (20001 * 128)) ∧
      ¬ Claim.overLimit (pidCurrent (20000 * 128 + 127)) := by
  unfold Claim.overLimit
  decide

/-- The base state with `TEL.CONSEC_DET` at `n`: 11 fails the lock gate, 12 passes. -/
def pidConsec (n : Word) : State :=
  { pidBase with tel := { pidBase.tel with consecDet := n } }

theorem witness_PidLockGate :
    ¬ Claim.overLimit (pidConsec 11) ∧ (pidConsec 11).tel.consecDet.toNat < 12 ∧
      12 ≤ (pidConsec 12).tel.consecDet.toNat := by
  unfold Claim.overLimit
  decide

theorem witness_PidOpenMode :
    ¬ Claim.overLimit (withSetting setMode 0 pidBase) ∧
      12 ≤ (withSetting setMode 0 pidBase).tel.consecDet.toNat ∧
      setting (withSetting setMode 0 pidBase) setMode = 0 := by
  unfold Claim.overLimit
  decide

/-- Closed mode with braking on, thresholds 300 and 100, and error `e`. -/
def pidBraking (sp : Int) : State :=
  withSetting setBraking 1 (withSetting setBrakeOnErr 300 (withSetting setBrakeOffErr 100
    (pidSetpoint sp)))

/-- Closed mode: the base state, and a state for each branch of the braking switch (V-PID-24,
V-PID-25, V-PID-26). -/
theorem witness_PidClosedMode :
    ¬ Claim.overLimit pidBase ∧ 12 ≤ pidBase.tel.consecDet.toNat ∧ setting pidBase setMode = 1 ∧
      ¬ Claim.overLimit (pidBraking 4400) ∧ setting (pidBraking 4400) setMode = 1 ∧
      Claim.closedError (pidBraking 4400) < -setting (pidBraking 4400) setBrakeOnErr ∧
      Claim.closedError (pidBraking 4600) = -200 ∧
      Claim.closedError (pidBraking 4750) > -setting (pidBraking 4750) setBrakeOffErr := by
  unfold Claim.overLimit
  decide

theorem witness_PidUnrecognisedMode :
    ¬ Claim.overLimit (withSetting setMode 2 pidBase) ∧
      12 ≤ (withSetting setMode 2 pidBase).tel.consecDet.toNat ∧
      setting (withSetting setMode 2 pidBase) setMode ≠ 0 ∧
      setting (withSetting setMode 2 pidBase) setMode ≠ 1 := by
  unfold Claim.overLimit
  decide

/-- One state of each case of the postcondition: limited, closed from a duty within its bounds, gate
closed, unrecognised mode. -/
theorem witness_PidPostcondition :
    (∃ t, exec .pidStep (pidCurrent (20001 * 128)) = .next t) ∧
      (∃ t, exec .pidStep pidBase = .next t) ∧
      setting pidBase setMinDc ≤ (pidBase.tel.duty.toNat : Int) ∧
      (pidBase.tel.duty.toNat : Int) ≤ setting pidBase setMaxDc ∧
      (∃ t, exec .pidStep (pidConsec 11) = .next t) ∧
      ∃ t, exec .pidStep (withSetting setMode 2 pidBase) = .next t :=
  ⟨⟨_, rfl⟩, ⟨_, rfl⟩, by decide, by decide, ⟨_, rfl⟩, ⟨_, rfl⟩⟩

theorem witness_FltSampleCompletes : (1#8).toNat ≤ 1 ∧ ¬ (2#8).toNat ≤ 1 := by decide

/-- The last blanked microsecond, with a half that repeats the last one and with one that does not. -/
theorem witness_BlankedBatchDropped :
    (fltBlanked.sys.cnt - fltBlanked.tel.lastSwap).toNat < ({} : Config).demagBlankingUs ∧
      fltBlanked.flt.lastHalf = some 1 ∧ fltBlanked.flt.lastHalf ≠ some 0 ∧
      (fltSample {} 1 fltBlanked).sys.glitchCnt = 1 ∧
      (fltSample {} 0 fltBlanked).sys.glitchCnt = 0 := by decide

/-- The first microsecond past blanking, on a new step and on the step seen before. -/
theorem witness_StepChangeSetsWindow :
    ({} : Config).demagBlankingUs ≤ ((atTime 100).sys.cnt - (atTime 100).tel.lastSwap).toNat ∧
      (atTime 100).flt.lastStep ≠ some (atTime 100).phd.step ∧
      ({} : Config).demagBlankingUs ≤ (fltState.sys.cnt - fltState.tel.lastSwap).toNat ∧
      fltState.flt.lastStep = some fltState.phd.step := by decide

theorem witness_BatchFramesInOrder :
    ({} : Config).demagBlankingUs ≤ ((atTime 100).sys.cnt - (atTime 100).tel.lastSwap).toNat ∧
      ({} : Config).demagBlankingUs ≤ (fltState.sys.cnt - fltState.tel.lastSwap).toNat := by
  decide

theorem witness_WindowLengthAntitone : (4991 : Nat) ≤ 4992 := by decide

/-- A current sample at the end of its range; a duty at and above BATT_DC_MIN. -/
theorem witness_FrameSmoothers :
    4095 < 2 ^ ({} : Config).adcW ∧
      (96#16).toNat > ({} : Config).battDcMin ∧ ¬ (95#16).toNat > ({} : Config).battDcMin := by
  decide

theorem witness_FrameBoxcar :
    fltState.flt.det = false ∧ fltState.flt.len.toNat ≤ fltState.flt.navg.toNat ∧
      (atTime 100).flt.det = false ∧ ¬ (atTime 100).flt.len.toNat ≤ (atTime 100).flt.navg.toNat := by
  decide

/-- A frame that crosses and one that does not (V-FLT-3's fifth batch, and the same with a lower
sample). -/
theorem witness_FrameZeroCross :
    fltState.flt.det = false ∧ fltState.flt.below = true ∧
      fltState.flt.len.toNat ≤ min (fltState.flt.navg.toNat + 1) 65535 ∧
      (Claim.boxcarSum {} fltState 0 3000 100 1429).toInt > 0 ∧
      (Claim.boxcarSum {} fltState 0 3000 100 1699).toInt < 0 := by decide

theorem witness_DetectedStepDropped :
    fltDetected.flt.det = true ∧ fltDetected.flt.lastStep = some fltDetected.phd.step := by decide

/-- A state with both flags, with half 0's only, with none. -/
theorem witness_FltsvcServesFullFirst :
    (adcFill {} 1 [] (adcFill {} 0 [] (atTime 0))).flt.ff = true ∧
      (adcFill {} 0 [] (atTime 0)).flt.ff = false ∧ (adcFill {} 0 [] (atTime 0)).flt.hf = true ∧
      (atTime 0).flt.ff = false ∧ (atTime 0).flt.hf = false := by decide

theorem witness_AdcFillResult :
    0 < Config.impl.nf ∧ (3 : Nat) < 4 ∧
      [(⟨3000, 100, 1400, 50⟩ : Frame)][0]? = some ⟨3000, 100, 1400, 50⟩ :=
  ⟨Config.impl.nf_pos, by decide, rfl⟩

theorem witness_event_operands : (9#8).toNat ≤ 9 ∧ ¬ (10#8).toNat ≤ 9 := by decide

theorem witness_ServiceAgentsFire : schPending.sch.cmpIf = true := by decide

/-- A delay of one microsecond and a delay of 0, with an ADC step between. -/
theorem witness_DeadlineMatchesOnTime :
    (∀ m ∈ [Move.adc 0 [], .tick], timeMove m = true) ∧
      [Move.adc 0 [], .tick].count .tick ≤ 2 ^ 32 ∧
      (∃ t, performAll [.adc 0 [], .tick] (schedule .timeout 1 (atTime 5)) = .next t) ∧
      ∃ t, performAll [.adc 0 [], .tick] (schedule .timeout 0 (atTime 5)) = .next t :=
  ⟨by decide, by decide, ⟨_, rfl⟩, ⟨_, rfl⟩⟩

theorem witness_ScheduledEventConsumedOnce :
    Event.timeout ≠ .zcd ∧ (∀ m ∈ [Move.tick, .tmo, .schsvc], agentMove m = true) ∧
      ∃ t, performAll [.tick, .tmo, .schsvc] (schedule .timeout 1 (atTime 5)) = .next t :=
  ⟨by decide, by decide, _, rfl⟩

/-- An armed slot under a move of each kind the statement tells apart. -/
theorem witness_SlotHeldUntilConsumed :
    (schState 5).sch.armed = true ∧ (∃ t, perform .tick (schState 5) = .next t) ∧
      (∃ t, perform .tmo (schState 5) = .next t) ∧ (∃ t, perform .reset (schState 5) = .next t) ∧
      ∃ t, perform (.beat 0x0300000000000000) (schState 5) = .next t :=
  ⟨rfl, ⟨_, rfl⟩, ⟨_, rfl⟩, ⟨_, rfl⟩, _, rfl⟩

end Sys2Proof.Tests
end

section
/-! Proofs for `00_scope.md`: the window length as a function of the speed (R8), and a step as the
move it performs (R6). -/

namespace Sys2Proof.Machine

open Sys2Proof

/-! ### The window length -/

/-- The RPM bucket of a speed, which no configuration lets pass the end of its table (R146). -/
def bucketOf (c : Config) (speed : Nat) : Nat := min (speed >>> fltShift) (c.nb - 1)

theorem windowLength_eq (c : Config) (speed scalar : Nat) :
    windowLength c speed scalar =
      max 1 (min (c.fltTable (bucketOf c speed) * scalar / 100) c.maxRunningFilter) := rfl

theorem bucketOf_lt (c : Config) (speed : Nat) : bucketOf c speed < c.nb := by
  have hnb := c.nb_min
  have hle : bucketOf c speed ≤ c.nb - 1 := Nat.min_le_right _ _
  omega

theorem bucketOf_mono (c : Config) {speed speed' : Nat} (h : speed ≤ speed') :
    bucketOf c speed ≤ bucketOf c speed' := by
  have hshift : speed >>> fltShift ≤ speed' >>> fltShift := by
    simp only [Nat.shiftRight_eq_div_pow]
    exact Nat.div_le_div_right h
  exact min_le_min_right _ hshift

/-- Every admitted table has a bucket 39, so 5000 RPM is not clipped to a lower one. -/
theorem bucketOf_5000 (c : Config) : bucketOf c 5000 = 39 := by
  have hshift : 5000 >>> fltShift = 39 := by decide
  have hnb := c.nb_min
  rw [bucketOf, hshift]
  omega

theorem one_le_windowLength (c : Config) (speed scalar : Nat) : 1 ≤ windowLength c speed scalar :=
  Nat.le_max_left _ _

theorem windowLength_le (c : Config) (speed scalar : Nat) :
    windowLength c speed scalar ≤ c.maxRunningFilter :=
  max_le c.maxRunningFilter_range.1 (min_le_right _ _)

/-- R8's argument: the table does not grow with the bucket, and scaling, truncating division and
clamping are each monotone. -/
theorem windowLength_antitone (c : Config) {speed speed' : Nat} (scalar : Nat)
    (h : speed ≤ speed') : windowLength c speed' scalar ≤ windowLength c speed scalar := by
  have htable : c.fltTable (bucketOf c speed') ≤ c.fltTable (bucketOf c speed) :=
    c.fltTable_antitone _ _ (bucketOf_mono c h) (bucketOf_lt c speed')
  have hscaled : c.fltTable (bucketOf c speed') * scalar / 100 ≤
      c.fltTable (bucketOf c speed) * scalar / 100 :=
    Nat.div_le_div_right (Nat.mul_le_mul_right scalar htable)
  rw [windowLength_eq, windowLength_eq]
  exact max_le_max_left 1 (min_le_min_right _ hscaled)

/-- Scenario C (R153 (ii)): `14 * 25 div 100 = 3`. -/
theorem windowLength_5000_25 (c : Config) : windowLength c 5000 25 = min 3 c.maxRunningFilter := by
  have hmax : 1 ≤ min 3 c.maxRunningFilter := le_min (by decide) c.maxRunningFilter_range.1
  rw [windowLength_eq, bucketOf_5000, c.fltTable_bucket39]
  exact max_eq_right hmax

/-- Settles O42: range, antitonicity and Scenario C of the window length, by R8's argument. -/
theorem windowLengthAntitone : Obligations.WindowLengthAntitone := fun c =>
  ⟨fun speed scalar => ⟨one_le_windowLength c speed scalar, windowLength_le c speed scalar⟩,
    fun _ _ scalar h => windowLength_antitone c scalar h, windowLength_5000_25 c⟩

/-! ### A step performs the move to come -/

theorem step_of_script_cons {s : State} {m : Move} {rest : List Move} (h : s.script = m :: rest) :
    step s = perform m { s with script := rest, draws := s.draws + 1 } := by
  rw [step, takeMove_cons h]

theorem step_of_script_nil {s : State} (h : s.script = []) :
    step s = perform (Config.impl.envMove s.draws) { s with draws := s.draws + 1 } := by
  rw [step, takeMove_nil h]

/-- Settles O6, by the two cases of taking the move to come; a legal beat is then performed as
`exec` of its decoding. -/
theorem stepRunsDecodedBeat : Obligations.StepRunsDecodedBeat := by
  refine ⟨fun s w rest i hscript hdecode => ?beat, fun _ _ _ => step_of_script_cons,
    fun _ => step_of_script_nil⟩
  case beat => rw [step_of_script_cons hscript, perform_beat_of_decode hdecode]

end Sys2Proof.Machine
end

section
/-! Proofs for `10_state.md`, the layer they share: what each move of an agent can do to the state
(`00_scope.md` R6), said once as `perform_effect`. -/

namespace Sys2Proof.Machine

open Sys2Proof

/-! ### The relations a move keeps -/

/-- The status bits stay set and the glitch counter does not go down (R25, R26). -/
structure StatusSticky (r r' : SysRegs) : Prop where
  phdFailsafe : r.phdFailsafe = true → r'.phdFailsafe = true
  pidBadmode : r.pidBadmode = true → r'.pidBadmode = true
  adcGlitch : r.adcGlitch = true → r'.adcGlitch = true
  glitchCnt : r.glitchCnt.toNat ≤ r'.glitchCnt.toNat

theorem StatusSticky.refl (r : SysRegs) : StatusSticky r r := ⟨id, id, id, le_rfl⟩

theorem StatusSticky.trans {r r' r'' : SysRegs} (h : StatusSticky r r') (k : StatusSticky r' r'') :
    StatusSticky r r'' :=
  ⟨k.phdFailsafe ∘ h.phdFailsafe, k.pidBadmode ∘ h.pidBadmode, k.adcGlitch ∘ h.adcGlitch,
    h.glitchCnt.trans k.glitchCnt⟩

/-- The telemetry the host alone writes is as before (R41, R42, R45, R46). -/
structure HostTelKept (r r' : TelRegs) : Prop where
  speed : r'.speed = r.speed
  setpoint : r'.setpoint = r.setpoint
  consecDet : r'.consecDet = r.consecDet
  consecMiss : r'.consecMiss = r.consecMiss

theorem HostTelKept.refl (r : TelRegs) : HostTelKept r r := ⟨rfl, rfl, rfl, rfl⟩

theorem HostTelKept.trans {r r' r'' : TelRegs} (h : HostTelKept r r') (k : HostTelKept r' r'') :
    HostTelKept r r'' :=
  ⟨k.speed.trans h.speed, k.setpoint.trans h.setpoint, k.consecDet.trans h.consecDet,
    k.consecMiss.trans h.consecMiss⟩

/-- The driver's part of the invariant: R57 (ii) and (iii). -/
def DriverOk (p : PhdRegs) : Prop :=
  p.dc.toNat ≤ Config.impl.dcOne ∧ p.gates = gatesOf p.armed p.step p.mode

/-- What an operation outside the FLT unit can do, SYS.WRREG and SYS.TELZERO apart: the counter, the
settings, the host's telemetry, the filter and both memories are as before, the status bits are
sticky, the driver stays within its invariant. -/
structure OperationFrame (s t : State) : Prop where
  cnt : t.sys.cnt = s.sys.cnt
  status : StatusSticky s.sys t.sys
  settings : t.settings = s.settings
  hostTel : HostTelKept s.tel t.tel
  flt : t.flt = s.flt
  win : t.win = s.win
  adcbuf : t.adcbuf = s.adcbuf
  adcEpoch : t.adcEpoch = s.adcEpoch
  driver : DriverOk s.phd → DriverOk t.phd

theorem OperationFrame.refl (s : State) : OperationFrame s s :=
  ⟨rfl, .refl _, rfl, .refl _, rfl, rfl, rfl, rfl, id⟩

theorem OperationFrame.trans {s t u : State} (h : OperationFrame s t) (k : OperationFrame t u) :
    OperationFrame s u :=
  ⟨k.cnt.trans h.cnt, h.status.trans k.status, k.settings.trans h.settings,
    h.hostTel.trans k.hostTel, k.flt.trans h.flt, k.win.trans h.win, k.adcbuf.trans h.adcbuf,
    k.adcEpoch.trans h.adcEpoch, k.driver ∘ h.driver⟩

theorem OperationFrame.respond {s t : State} (h : OperationFrame s t) (r : Resp) (d : Word) :
    OperationFrame s (respond r d t) :=
  { h with }

theorem OperationFrame.respondOk {s t : State} (h : OperationFrame s t) :
    OperationFrame s (respondOk t) :=
  h.respond .ok 0

/-- Writing driver registers alone keeps the frame where the driver stays within its invariant. -/
theorem operationFrame_of_phd {s : State} {p : PhdRegs} (h : DriverOk s.phd → DriverOk p) :
    OperationFrame s { s with phd := p } :=
  { OperationFrame.refl s with driver := h }

/-- Writing driver registers and pushing keeps the frame where the duty stays in range. -/
theorem push_phd_frame {s : State} {p : PhdRegs}
    (h : DriverOk s.phd → p.dc.toNat ≤ Config.impl.dcOne) :
    OperationFrame s (push { s with phd := p }) :=
  operationFrame_of_phd fun hd => ⟨h hd, rfl⟩

/-! ### SCH -/

theorem emit_frame (e : Event) (s : State) : OperationFrame s (emit e s) :=
  { OperationFrame.refl s with }

theorem operationFrame_of_sch (s : State) (r : SchRegs) : OperationFrame s { s with sch := r } :=
  { OperationFrame.refl s with }

theorem schedule_frame (e : Event) (delay : Word) (s : State) :
    OperationFrame s (schedule e delay s) :=
  operationFrame_of_sch s _

theorem schFire_frame (s : State) : OperationFrame s (schFire s) := by
  rcases schFire_cases s with ⟨_, e⟩ | ⟨_, e⟩ <;> rw [e]
  · exact { OperationFrame.refl s with }
  · exact .refl s

theorem schsvc_frame (s : State) : OperationFrame s (schsvc s) := by
  unfold schsvc
  split
  · exact (operationFrame_of_sch s _).trans (schFire_frame _)
  · exact .refl s

/-! ### PHD -/

theorem driverOk_off (p : PhdRegs) : DriverOk { p with armed := false, dc := 0, gates := 0 } :=
  ⟨Nat.zero_le _, rfl⟩

theorem driverOff_frame (s : State) : OperationFrame s (driverOff s) :=
  operationFrame_of_phd fun _ => driverOk_off s.phd

theorem arm_frame (s : State) :
    OperationFrame s (push { s with phd := { s.phd with armed := true } }) :=
  push_phd_frame fun hd => hd.1

theorem setMode_frame (m : DriveMode) (s : State) :
    OperationFrame s (push { s with phd := { s.phd with mode := m } }) :=
  push_phd_frame fun hd => hd.1

theorem failsafe_frame (s : State) : OperationFrame s (failsafe s) :=
  { OperationFrame.refl s with
    status := { StatusSticky.refl s.sys with phdFailsafe := fun _ => rfl }
    driver := fun _ => driverOk_off s.phd }

theorem commutate_frame (st : CommStep) (s : State) : OperationFrame s (commutate st s) :=
  { OperationFrame.refl s with
    hostTel := ⟨rfl, rfl, rfl, rfl⟩
    driver := fun hd => ⟨hd.1, rfl⟩ }

/-- A duty the operand check admits is at most `DC_ONE` (R194). -/
theorem dutyOperand_le {imm : Word} {d : BitVec 16}
    (h : dutyOperand Config.impl imm = some d) : d.toNat ≤ Config.impl.dcOne := by
  simp only [dutyOperand] at h
  split at h
  next hle =>
    have hfits := Config.impl.dcOne_range.2
    cases h
    rw [BitVec.toNat_setWidth]
    exact (Nat.mod_le _ _).trans hle
  next => cases h

/-! ### PID -/

/-- The clamped duty handed to the driver is at most `DC_ONE` (R126, R131). -/
theorem forward_setTelDuty_frame (x : Int) (s : State) :
    OperationFrame s (forward (setTelDuty Config.impl x s)) := by
  have hduty : (setTelDuty Config.impl x s).tel.duty.toNat ≤ Config.impl.dcOne := by
    have hvalue := setTelDuty_toNat Config.impl x s
    have hclamp := clampDc_range Config.impl s x
    have hmax := Config.impl.hwMaxDc_le
    omega
  exact
    { OperationFrame.refl s with
      hostTel := ⟨rfl, rfl, rfl, rfl⟩
      driver := fun _ => ⟨hduty, rfl⟩ }

theorem integrate_frame (e : Int) (s : State) : OperationFrame s (integrate e s) := by
  rw [integrate_eq]
  exact { OperationFrame.refl s with hostTel := ⟨rfl, rfl, rfl, rfl⟩ }

theorem brake_frame (e : Int) (s : State) : OperationFrame s (brake e s) := by
  unfold brake
  split_ifs
  · exact setMode_frame .lowOnPwmBoth s
  · exact setMode_frame .lowOnPwmHigh s
  · exact .refl s
  · exact .refl s

theorem forward_closedMode_frame (s : State) :
    OperationFrame s (forward (closedMode Config.impl s)) :=
  (integrate_frame _ s).trans ((brake_frame _ _).trans (forward_setTelDuty_frame _ _))

theorem badMode_frame (s : State) : OperationFrame s (badMode s) :=
  { OperationFrame.refl s with
    status := { StatusSticky.refl s.sys with pidBadmode := fun _ => rfl } }

theorem withLock_frame (l : Bool) (s : State) : OperationFrame s (withLock l s) :=
  { OperationFrame.refl s with hostTel := ⟨rfl, rfl, rfl, rfl⟩ }

theorem controlMode_frame (s : State) : OperationFrame s (controlMode Config.impl s) := by
  by_cases hopen : setting s setMode = 0
  · rw [controlMode_open hopen]
    exact forward_setTelDuty_frame _ s
  by_cases hclosed : setting s setMode = 1
  · rw [controlMode_closed hclosed]
    exact forward_closedMode_frame s
  · rw [controlMode_unrecognised hopen hclosed]
    exact badMode_frame s

theorem pidStep_frame (s : State) : OperationFrame s (pidStep Config.impl s) := by
  cases hover : overCurrent s with
  | true =>
    rw [pidStep_limited hover]
    exact forward_setTelDuty_frame _ s
  | false =>
    cases hlock : lockGate s with
    | false =>
      rw [pidStep_unlocked hover hlock]
      exact withLock_frame false s
    | true =>
      rw [pidStep_locked hover hlock]
      exact (withLock_frame true s).trans (controlMode_frame _)

/-! ### What a move can do -/

/-- What a move can do: one constructor for CLOCK, reset, ADC, FLT.SAMPLE by trigger and by beat,
SYS.WRREG and SYS.TELZERO, and one for everything else, an illegal beat included. -/
inductive MoveEffect : Move → State → State → Prop
  | tick (s : State) : MoveEffect .tick s (tick s)
  | reset (s : State) : MoveEffect .reset s (resetBlock s)
  | adc (h : Half) (frames : List Frame) (s : State) :
    MoveEffect (.adc h frames) s (adcFill Config.impl h frames s)
  | sampleTrigger (h : Half) (s : State) : MoveEffect .fltsvc s (fltSample Config.impl h s)
  | sampleBeat (w : Beat) (h : Half) (s : State) :
    MoveEffect (.beat w) s (respondOk (fltSample Config.impl h s))
  | write {w : Beat} {a : BitVec 8} {v : Word} {s t : State} (hw : decode w = .ok (.sysWrreg a v))
    (ht : writeIndex s a v = some t) : MoveEffect (.beat w) s (respondOk t)
  | telZero {w : Beat} (s : State) (hw : decode w = .ok .sysTelzero) :
    MoveEffect (.beat w) s (respondOk (telZero s))
  | operation {m : Move} {s t : State} (htick : m ≠ .tick) (hreset : m ≠ .reset)
    (ht : OperationFrame s t) : MoveEffect m s t

theorem MoveEffect.beat {w : Beat} {s t : State} (h : OperationFrame s t) :
    MoveEffect (.beat w) s t :=
  .operation nofun nofun h

theorem exec_effect {w : Beat} {i : Instr} {s t : State} (hw : decode w = .ok i)
    (h : exec i s = .next t) : MoveEffect (.beat w) s t := by
  have hself (r : Resp) (d : Word) : OperationFrame s (respond r d s) :=
    (OperationFrame.refl s).respond r d
  cases i <;> cases h
  case sysNop => exact .beat (hself _ _)
  case sysRdreg a =>
    split
    · exact .beat (hself _ _)
    · exact .beat (hself _ _)
  case sysWrreg a v =>
    split
    next ht => exact .write hw ht
    next => exact .beat (hself _ _)
  case sysTelzero => exact .telZero s hw
  case pidStep => exact .beat (pidStep_frame s).respondOk
  case fltSample a =>
    split
    next h _ => exact .sampleBeat w h s
    next => exact .beat (hself _ _)
  case schSchedule a delay =>
    split
    · exact .beat (schedule_frame _ delay s).respondOk
    · exact .beat (hself _ _)
  case schInject a =>
    split
    · exact .beat (emit_frame _ s).respondOk
    · exact .beat (hself _ _)
  case schFire => exact .beat (schFire_frame s).respondOk
  case phdInit a cfg =>
    split
    · exact .beat (operationFrame_of_phd fun _ => ⟨Nat.zero_le _, rfl⟩).respondOk
    · exact .beat (failsafe_frame s)
  case phdOff => exact .beat (driverOff_frame s).respondOk
  case phdArm => exact .beat (arm_frame s).respondOk
  case phdSetmode a =>
    split
    · exact .beat (setMode_frame _ s).respondOk
    · exact .beat (failsafe_frame s)
  case phdSetduty imm =>
    split
    next hduty => exact .beat (push_phd_frame fun _ => dutyOperand_le hduty).respondOk
    next => exact .beat (failsafe_frame s)
  case phdSetstate a =>
    split
    · exact .beat (commutate_frame _ s).respondOk
    · exact .beat (failsafe_frame s)
  case phdNext => exact .beat (commutate_frame _ s).respondOk

theorem fltsvc_effect (s : State) : MoveEffect .fltsvc s (fltsvc Config.impl s) := by
  rcases fltsvc_cases Config.impl s with ⟨_, e⟩ | ⟨_, _, e⟩ | ⟨_, _, e⟩ <;> rw [e]
  · exact .sampleTrigger 1 s
  · exact .sampleTrigger 0 s
  · exact .operation nofun nofun (.refl s)

/-- Every move's next state is one the effects list. -/
theorem perform_effect {m : Move} {s t : State} (h : perform m s = .next t) :
    MoveEffect m s t := by
  cases m with
  | beat w =>
    cases hw : decode w with
    | ok i =>
      rw [perform_beat_of_decode hw] at h
      exact exec_effect hw h
    | error e =>
      rw [perform_beat_of_illegal hw] at h
      cases h
      exact .beat ((OperationFrame.refl s).respond .illegal 0)
  | tick => cases h; exact .tick s
  | adc half frames => cases h; exact .adc half frames s
  | fltsvc => cases h; exact fltsvc_effect s
  | schsvc => cases h; exact .operation nofun nofun (schsvc_frame s)
  | tmo => cases h; exact .operation nofun nofun (schFire_frame s)
  | reset => cases h; exact .reset s

end Sys2Proof.Machine
end

section
/-! Proofs for `10_state.md`: the reset values (R58), who writes the counter (R24), the sticky status
(R25, R26) and the host's registers (R36, R41, R42, R45, R46, R53). -/

namespace Sys2Proof.Machine

open Sys2Proof

/-! ### What SYS.WRREG, the ADC agent and FLT.SAMPLE write -/

/-- The filter, `FLT.SCALAR` apart, and both memories are as before. -/
structure WindowKept (s t : State) : Prop where
  flt : t.flt = { s.flt with scalar := t.flt.scalar }
  win : t.win = s.win
  adcbuf : t.adcbuf = s.adcbuf
  adcEpoch : t.adcEpoch = s.adcEpoch

/-- What SYS.WRREG can write: `FLT.SCALAR`, telemetry and settings (R112). -/
structure WriteFrame (s t : State) : Prop extends WindowKept s t where
  sys : t.sys = s.sys
  phd : t.phd = s.phd

theorem writeReg_frame {s t : State} {r : Reg} {v : Word} (h : writeReg s r v = some t) :
    WriteFrame s t := by
  cases r <;> cases h <;> exact ⟨⟨rfl, rfl, rfl, rfl⟩, rfl, rfl⟩

theorem writeIndex_frame {s t : State} {a : BitVec 8} {v : Word} (h : writeIndex s a v = some t) :
    WriteFrame s t := by
  obtain ⟨r, _, hr⟩ := Option.bind_eq_some_iff.1 h
  exact writeReg_frame hr

/-- The ADC agent's step writes ADCBUF and the two batch flags (R74). -/
theorem adcFill_eq (c : Config) (h : Half) (frames : List Frame) (s : State) :
    adcFill c h frames s =
      { s with
        flt :=
          { s.flt with
            hf := (adcFill c h frames s).flt.hf
            ff := (adcFill c h frames s).flt.ff }
        adcbuf := ((adcWrites c s h frames).foldl (adcWrite c) s).adcbuf } := by
  unfold adcFill setBatchFlag
  rw [foldl_adcWrite_eq]
  split <;> rfl

/-- Past the repeat-pointer check FLT.SAMPLE leaves the system registers alone. -/
theorem sampleFrame_sys (c : Config) (h : Half) (st : CommStep) (s : State) (f : Nat) :
    (sampleFrame c h st s f).sys = s.sys := by
  unfold sampleFrame
  rw [filterFrame_eq, battery_eq]
  unfold frameCore
  split
  · rfl
  · rcases zeroCross_cases c (boxcar _ (currentIir c _ s)) with ⟨_, e⟩ | ⟨_, e⟩ <;> rw [e] <;> rfl

theorem sampleBatch_sys (c : Config) (h : Half) (s : State) : (sampleBatch c h s).sys = s.sys := by
  unfold sampleBatch
  refine (foldl_sampleFrame_induction (fun s t => t.sys = s.sys) (fun _ => rfl)
    (fun _ _ _ hst htu => htu.trans hst) (sampleFrame_sys c h _) _ _).trans ?_
  split <;> rfl

theorem fltSample_sys (c : Config) (h : Half) (s : State) :
    (fltSample c h s).sys = (repeatCheck h s).sys := by
  unfold fltSample
  simp only
  split
  · rfl
  · exact sampleBatch_sys c h _

/-- The glitch of a repeated half sets its bit and counts up, saturating (R141). -/
theorem repeatCheck_status (h : Half) (s : State) : StatusSticky s.sys (repeatCheck h s).sys := by
  unfold repeatCheck
  cases repeated s h with
  | false => exact .refl _
  | true =>
    have hword := s.sys.glitchCnt.isLt
    refine { StatusSticky.refl s.sys with adcGlitch := fun _ => rfl, glitchCnt := ?_ }
    simp only [if_true, BitVec.toNat_ofNat]
    omega

theorem fltSample_status (c : Config) (h : Half) (s : State) :
    StatusSticky s.sys (fltSample c h s).sys := by
  rw [fltSample_sys]
  exact repeatCheck_status h s

theorem FilterFrame.hostTel {s t : State} (h : FilterFrame s t) : HostTelKept s.tel t.tel := by
  rw [h.tel]
  exact ⟨rfl, rfl, rfl, rfl⟩

/-! ### Reset -/

/-- The machine's reset state is what the reset input leaves of it. -/
theorem resetBlock_reset : resetBlock State.reset = State.reset := rfl

theorem readReg_resetBlock (s : State) (r : Reg) :
    readReg (resetBlock s) r = readReg State.reset r := rfl

theorem readIndex_reset (a : BitVec 8) : readIndex State.reset a = Claim.resetWord a.toNat := by
  revert a
  decide

theorem readIndex_resetBlock (s : State) (a : BitVec 8) :
    readIndex (resetBlock s) a = Claim.resetWord a.toNat :=
  (congrArg (Option.map · (Reg.ofIndex a)) (funext (readReg_resetBlock s))).trans
    (readIndex_reset a)

theorem winAt_resetBlock (s : State) (k : Nat) : winAt (resetBlock s) k = 0 := rfl

/-- Settles O8: the reset table index by index; the reset state is a reset of itself. -/
theorem resetValues : Obligations.ResetValues :=
  ⟨fun s => ⟨resetBlock s, rfl, readIndex_resetBlock s, winAt_resetBlock s, rfl⟩,
    readIndex_reset, winAt_resetBlock State.reset, rfl⟩

/-! ### Who writes what -/

/-- Settles O13, by what each move can do: CLOCK and reset write the counter, nothing else does. -/
theorem counterWrittenByClockOnly : Obligations.CounterWrittenByClockOnly := by
  intro m s t h
  cases perform_effect h with
  | tick => rfl
  | reset => rfl
  | adc half frames => rw [adcFill_eq]; rfl
  | sampleTrigger half => exact (fltSample_frame _ half s).cnt
  | sampleBeat w half => exact (fltSample_frame _ half s).cnt
  | write _ ht => exact congrArg SysRegs.cnt (writeIndex_frame ht).sys
  | telZero => rfl
  | operation htick hreset ht => rw [if_neg htick, if_neg hreset, ht.cnt]

theorem perform_status {m : Move} {s t : State} (h : perform m s = .next t) (hm : m ≠ .reset) :
    StatusSticky s.sys t.sys := by
  cases perform_effect h with
  | tick => exact { StatusSticky.refl s.sys with }
  | reset => exact absurd rfl hm
  | adc half frames => rw [adcFill_eq]; exact .refl _
  | sampleTrigger half => exact fltSample_status _ half s
  | sampleBeat w half => exact fltSample_status _ half s
  | write _ ht => rw [respondOk_sys, (writeIndex_frame ht).sys]; exact .refl _
  | telZero => exact .refl _
  | operation _ _ ht => exact ht.status

/-- Settles O14: the status is sticky under each effect a move can have; the glitch of FLT.SAMPLE
is `repeatCheck_status`. -/
theorem statusBitsSticky : Obligations.StatusBitsSticky := by
  intro m s t h hm
  obtain ⟨hfailsafe, hbadmode, hglitch, hcount⟩ := perform_status h hm
  exact ⟨hfailsafe, hbadmode, hglitch, hcount⟩

/-- Settles O15: of the effects a move can have, only SYS.WRREG's, SYS.TELZERO's and reset's reach
the host's registers. -/
theorem hostRegistersWrittenByHostOnly : Obligations.HostRegistersWrittenByHostOnly := by
  intro m s t h hreset hwrite
  suffices hkept : t.settings = s.settings ∧ t.flt.scalar = s.flt.scalar ∧
      ((∀ w, m = .beat w → decode w ≠ .ok .sysTelzero) → HostTelKept s.tel t.tel) by
    obtain ⟨hset, hscalar, htel⟩ := hkept
    refine ⟨hset, hscalar, fun hzero => ?_⟩
    obtain ⟨hspeed, hsetpoint, hdet, hmiss⟩ := htel hzero
    exact ⟨hspeed, hsetpoint, hdet, hmiss⟩
  cases perform_effect h with
  | tick => exact ⟨rfl, rfl, fun _ => .refl _⟩
  | reset => exact absurd rfl hreset
  | adc half frames => rw [adcFill_eq]; exact ⟨rfl, rfl, fun _ => .refl _⟩
  | sampleTrigger half =>
    have hframe := fltSample_frame Config.impl half s
    exact ⟨hframe.settings, hframe.scalar, fun _ => hframe.hostTel⟩
  | sampleBeat w half =>
    have hframe := fltSample_frame Config.impl half s
    exact ⟨hframe.settings, hframe.scalar, fun _ => hframe.hostTel⟩
  | write hw _ => exact absurd hw (hwrite _ _ _ rfl)
  | telZero _ hw => exact ⟨rfl, rfl, fun hzero => absurd hw (hzero _ rfl)⟩
  | operation _ _ ht => exact ⟨ht.settings, congrArg FltRegs.scalar ht.flt, fun _ => ht.hostTel⟩

end Sys2Proof.Machine
end

section
/-! Proofs for `10_state.md` R57: the invariant of every reachable state, and the running sum of the
filter's window. -/

namespace Sys2Proof.Machine

open Sys2Proof

/-! ### Invariants of FLT.SAMPLE, part by part -/

/-- A predicate every part of FLT.SAMPLE keeps, given samples and differences in range. -/
structure KeptBySample (P : State → Prop) : Prop where
  adc_range : ∀ {s}, P s → ∀ n, (adcAt Config.impl s n).toNat < 2 ^ Config.impl.adcW
  repeatCheck : ∀ {s} h, P s → P (repeatCheck h s)
  stepChange : ∀ {s} st, P s → P (stepChange Config.impl st s)
  currentIir : ∀ {s i}, i < 2 ^ Config.impl.adcW → P s → P (currentIir Config.impl i s)
  boxcar : ∀ {s d}, d.natAbs ≤ 2 ^ Config.impl.adcW - 1 → P s → P (boxcar d s)
  zeroCross : ∀ {s}, P s → P (zeroCross Config.impl s)
  battery : ∀ {s} st va vb vc, P s → P (battery Config.impl st va vb vc s)

theorem phaseSample_lt {p : Phase} {va vb vc n : Nat} (ha : va < n) (hb : vb < n) (hc : vc < n) :
    phaseSample p va vb vc < n := by
  cases p <;> assumption

/-- The difference of two samples in range, whatever its sign, is a window entry in range (R39,
R147). -/
theorem phaseDiff_natAbs_le (c : Config) (s : State) (st : CommStep) {va vb vc : Nat}
    (ha : va < 2 ^ c.adcW) (hb : vb < 2 ^ c.adcW) (hc : vc < 2 ^ c.adcW) :
    (phaseDiff c s st va vb vc).natAbs ≤ 2 ^ c.adcW - 1 := by
  have hund := phaseSample_lt (p := floatPhase st) ha hb hc
  have hsign : (c.pol st * (if setting s setDirection = 1 then -1 else 1)).natAbs = 1 := by
    rw [Int.natAbs_mul]
    rcases c.pol_sign st with h | h <;> rw [h] <;> split <;> rfl
  simp only [phaseDiff]
  rw [Int.natAbs_mul, hsign]
  omega

section
variable {P : State → Prop} (hP : KeptBySample P)
include hP

theorem KeptBySample.frameCore {s : State} {d : Int} (hd : d.natAbs ≤ 2 ^ Config.impl.adcW - 1)
    (hs : P s) : P (frameCore Config.impl d s) := by
  unfold Machine.frameCore
  split
  · exact hs
  · exact hP.zeroCross (hP.boxcar hd hs)

theorem KeptBySample.sampleFrame (h : Half) (st : CommStep) (s : State) (f : Nat) (hs : P s) :
    P (sampleFrame Config.impl h st s f) := by
  have hsample (ch : Nat) : adcRead Config.impl s h f ch < 2 ^ Config.impl.adcW :=
    hP.adc_range hs _
  unfold Machine.sampleFrame
  rw [filterFrame_eq]
  exact hP.battery _ _ _ _ (hP.frameCore
    (phaseDiff_natAbs_le _ _ _ (hsample 0) (hsample 1) (hsample 2))
    (hP.currentIir (hsample 3) hs))

theorem KeptBySample.sampleBatch (h : Half) {s : State} (hs : P s) :
    P (sampleBatch Config.impl h s) := by
  unfold Machine.sampleBatch
  refine foldl_sampleFrame_induction (fun s t => P s → P t) (fun _ => id)
    (fun _ _ _ hst htu hs => htu (hst hs)) (hP.sampleFrame h _) _ _ ?_
  split
  · exact hP.stepChange _ hs
  · exact hs

theorem KeptBySample.fltSample (h : Half) {s : State} (hs : P s) :
    P (fltSample Config.impl h s) := by
  unfold Machine.fltSample
  simp only
  split
  · exact hP.repeatCheck h hs
  · exact hP.sampleBatch h (hP.repeatCheck h hs)

end

/-! ### `Inv` under the parts of FLT.SAMPLE -/

theorem inv_repeatCheck {s : State} (h : Half) (hs : Inv s) : Inv (repeatCheck h s) :=
  { hs with }

/-- The window length just computed fits the register. -/
theorem stepChange_len (c : Config) (st : CommStep) (s : State) :
    (stepChange c st s).flt.len.toNat =
      windowLength c s.tel.speed.toNat s.flt.scalar.toNat := by
  have hle := windowLength_le c s.tel.speed.toNat s.flt.scalar.toNat
  have hmax := c.maxRunningFilter_range.2
  exact Nat.mod_eq_of_lt (by omega)

theorem inv_stepChange {s : State} (st : CommStep) (hs : Inv s) :
    Inv (stepChange Config.impl st s) := by
  have hlen := stepChange_len Config.impl st s
  have hpos := one_le_windowLength Config.impl s.tel.speed.toNat s.flt.scalar.toNat
  have hle := windowLength_le Config.impl s.tel.speed.toNat s.flt.scalar.toNat
  exact
    { hs with
      len_range := by omega
      ptr_lt := by rw [hlen]; exact hpos }

/-- R37: the smoother loses at least what its input can add at the top of the range. -/
theorem inv_currentIir {s : State} {i : Nat} (hi : i < 2 ^ Config.impl.adcW) (hs : Inv s) :
    Inv (currentIir Config.impl i s) := by
  have hacc := hs.curAcc_lt
  have hin := Config.impl.curcal_range i hi
  refine { hs with curAcc_lt := ?_ }
  simp only [currentIir, curShift, BitVec.toNat_ofNat, Nat.shiftRight_eq_div_pow]
  omega

theorem inv_battery {s : State} (st : CommStep) (va vb vc : Nat) (hs : Inv s) :
    Inv (battery Config.impl st va vb vc s) := by
  unfold battery
  split
  next hduty =>
    have hacc := hs.batAcc_le
    have hin := Config.impl.battEst_range (phaseSample (highPhase st) va vb vc)
      s.tel.duty.toNat (by omega)
    refine { hs with batAcc_le := ?_ }
    simp only [batShift, BitVec.toNat_ofNat, Nat.shiftRight_eq_div_pow]
    omega
  next => exact hs

theorem inv_zeroCross {s : State} (hs : Inv s) : Inv (zeroCross Config.impl s) := by
  rcases zeroCross_cases Config.impl s with ⟨_, e⟩ | ⟨_, e⟩ <;> rw [e] <;> exact { hs with }

/-- The pointer advances round the ring of `FLT.LEN` slots (R148). -/
theorem boxcar_ptr {s : State} (hs : Inv s) (d : Int) :
    (boxcar d s).flt.ptr.toNat = (s.flt.ptr.toNat + 1) % s.flt.len.toNat := by
  have hlt : (s.flt.ptr.toNat + 1) % s.flt.len.toNat < s.flt.len.toNat :=
    Nat.mod_lt _ hs.len_range.1
  exact Nat.mod_eq_of_lt (hlt.trans s.flt.len.isLt)

theorem winAt_boxcar (d : Int) (s : State) (k : Nat) :
    winAt (boxcar d s) k = if k = s.flt.ptr.toNat then d else winAt s k :=
  winAt_writeWin s.flt.ptr.toNat k d s

theorem inv_boxcar {s : State} {d : Int} (hd : d.natAbs ≤ 2 ^ Config.impl.adcW - 1) (hs : Inv s) :
    Inv (boxcar d s) :=
  { hs with
    ptr_lt := by rw [boxcar_ptr hs]; exact Nat.mod_lt _ hs.len_range.1
    win_range := fun k => by
      rw [winAt_boxcar]
      split
      · exact hd
      · exact hs.win_range k
    win_wf := boxcar_wf hs.win_wf d }

theorem inv_keptBySample : KeptBySample Inv where
  adc_range := Inv.adc_range
  repeatCheck := inv_repeatCheck
  stepChange := inv_stepChange
  currentIir := inv_currentIir
  boxcar := inv_boxcar
  zeroCross := inv_zeroCross
  battery := inv_battery

/-! ### The running sum (R57 (v)) -/

/-- The slot of the window written `j + 1` frames ago. -/
def recentSlot (s : State) (j : Nat) : Nat :=
  (s.flt.ptr.toNat + s.flt.len.toNat - 1 - j) % s.flt.len.toNat

theorem recentSum_eq_sum (s : State) (n : Nat) :
    recentSum s n = ∑ j ∈ Finset.range n, winAt s (recentSlot s j) := rfl

/-- One entry older. -/
theorem recentSum_succ (s : State) (n : Nat) :
    recentSum s (n + 1) = recentSum s n + winAt s (recentSlot s n) := by
  simp only [recentSum_eq_sum, Finset.sum_range_succ]

/-- Going all the way back round the ring ends at the pointer's own slot. -/
theorem recentSlot_oldest {s : State} (hs : Inv s) :
    recentSlot s (s.flt.len.toNat - 1) = s.flt.ptr.toNat := by
  have hlen := hs.len_range.1
  have hptr := hs.ptr_lt
  rw [recentSlot, show s.flt.ptr.toNat + s.flt.len.toNat - 1 - (s.flt.len.toNat - 1) =
    s.flt.ptr.toNat by omega]
  exact Nat.mod_eq_of_lt hptr

/-- Before that, the slots are others than the pointer's. -/
theorem recentSlot_ne_ptr {s : State} (hs : Inv s) {j : Nat} (hj : j + 1 < s.flt.len.toNat) :
    recentSlot s j ≠ s.flt.ptr.toNat := by
  have hptr := hs.ptr_lt
  unfold recentSlot
  rcases Nat.lt_or_ge j s.flt.ptr.toNat with h | h
  · rw [show s.flt.ptr.toNat + s.flt.len.toNat - 1 - j =
      s.flt.ptr.toNat - 1 - j + s.flt.len.toNat by omega, Nat.add_mod_right,
      Nat.mod_eq_of_lt (by omega)]
    omega
  · rw [Nat.mod_eq_of_lt (by omega)]
    omega

/-- After a boxcar the most recent slot is the one just written. -/
theorem recentSlot_boxcar_zero {s : State} (hs : Inv s) (d : Int) :
    recentSlot (boxcar d s) 0 = s.flt.ptr.toNat := by
  have hptr := hs.ptr_lt
  rw [recentSlot, boxcar_ptr hs]
  change ((s.flt.ptr.toNat + 1) % s.flt.len.toNat + s.flt.len.toNat - 1 - 0) % s.flt.len.toNat = _
  rcases Nat.lt_or_ge (s.flt.ptr.toNat + 1) s.flt.len.toNat with h | h
  · rw [Nat.mod_eq_of_lt h, show s.flt.ptr.toNat + 1 + s.flt.len.toNat - 1 - 0 =
      s.flt.ptr.toNat + s.flt.len.toNat by omega, Nat.add_mod_right, Nat.mod_eq_of_lt hptr]
  · rw [show s.flt.ptr.toNat + 1 = s.flt.len.toNat by omega, Nat.mod_self,
      Nat.mod_eq_of_lt (by omega)]
    omega

/-- After a boxcar every older slot is one frame further back. -/
theorem recentSlot_boxcar_succ {s : State} (hs : Inv s) (d : Int) {j : Nat}
    (hj : j + 1 < s.flt.len.toNat) : recentSlot (boxcar d s) (j + 1) = recentSlot s j := by
  have hptr := hs.ptr_lt
  rw [recentSlot, boxcar_ptr hs, recentSlot]
  change ((s.flt.ptr.toNat + 1) % s.flt.len.toNat + s.flt.len.toNat - 1 - (j + 1)) %
    s.flt.len.toNat = _
  rcases Nat.lt_or_ge (s.flt.ptr.toNat + 1) s.flt.len.toNat with h | h
  · rw [Nat.mod_eq_of_lt h]
    congr 1
    omega
  · rw [show s.flt.ptr.toNat + 1 = s.flt.len.toNat by omega, Nat.mod_self,
      show s.flt.ptr.toNat + s.flt.len.toNat - 1 - j =
        (0 + s.flt.len.toNat - 1 - (j + 1)) + s.flt.len.toNat by omega, Nat.add_mod_right]

/-- After a boxcar the recent entries are the new one and the recent entries of before. -/
theorem recentSum_boxcar {s : State} (hs : Inv s) (d : Int) {n : Nat} (hn : n < s.flt.len.toNat) :
    recentSum (boxcar d s) (n + 1) = recentSum s n + d := by
  have holder : ∀ j ∈ Finset.range n,
      winAt (boxcar d s) (recentSlot (boxcar d s) (j + 1)) = winAt s (recentSlot s j) := by
    intro j hj
    have hlt : j + 1 < s.flt.len.toNat := by
      have := Finset.mem_range.1 hj
      omega
    rw [recentSlot_boxcar_succ hs d hlt, winAt_boxcar, if_neg (recentSlot_ne_ptr hs hlt)]
  rw [recentSum_eq_sum, Finset.sum_range_succ', Finset.sum_congr rfl holder,
    recentSlot_boxcar_zero hs, winAt_boxcar, if_pos rfl, recentSum_eq_sum]

/-- A sum over at most the whole window fits the signed 32 bits of `FLT.SUM` (R33). -/
theorem s32_u32_recentSum {s : State} (hs : Inv s) {n : Nat} (hn : n ≤ s.flt.len.toNat) :
    s32 (u32 (recentSum s n)) = recentSum s n := by
  have hentry (k : Nat) : |winAt s k| ≤ 65535 := by
    have hrange := hs.win_range k
    have hwidth : 2 ^ Config.impl.adcW ≤ 2 ^ 16 :=
      Nat.pow_le_pow_right (by decide) Config.impl.adcW_range.2
    exact abs_le.2 (by omega)
  have hsum : |recentSum s n| ≤ n * 65535 := by
    rw [recentSum_eq_sum]
    calc |∑ j ∈ Finset.range n, winAt s (recentSlot s j)|
        ≤ ∑ j ∈ Finset.range n, |winAt s (recentSlot s j)| := Finset.abs_sum_le_sum_abs _ _
      _ ≤ (Finset.range n).card • (65535 : Int) :=
          Finset.sum_le_card_nsmul _ _ _ fun j _ => hentry _
      _ = n * 65535 := by rw [Finset.card_range, nsmul_eq_mul]
  have hlen := hs.len_range.2
  have hmax := Config.impl.maxRunningFilter_range.2
  have hbound := abs_le.1 hsum
  rw [s32, u32, BitVec.toInt_ofInt]
  exact Int.bmod_eq_of_le (by omega) (by omega)

/-! ### `FilterInv` under the parts of FLT.SAMPLE -/

/-- Evicting the oldest entry of a full window and adding the new one keeps the sum of the recent
entries; a window not yet full grows by the new one. -/
theorem boxcar_sum {s : State} (hs : FilterInv s) {d : Int}
    (hd : d.natAbs ≤ 2 ^ Config.impl.adcW - 1) :
    s32 (boxcar d s).flt.sum =
      recentSum (boxcar d s) (min (s.flt.navg.toNat + 1) s.flt.len.toNat) := by
  have hlen := hs.inv.len_range.1
  have hfit := s32_u32_recentSum (inv_boxcar hd hs.inv)
    (Nat.min_le_right (s.flt.navg.toNat + 1) s.flt.len.toNat)
  suffices hkept : (if windowFull s then s32 s.flt.sum - winAt s s.flt.ptr.toNat
      else s32 s.flt.sum) + d =
        recentSum (boxcar d s) (min (s.flt.navg.toNat + 1) s.flt.len.toNat) by
    rw [← hfit, ← hkept]
    rfl
  rcases Nat.lt_or_ge s.flt.navg.toNat s.flt.len.toNat with hfilling | hfull
  · have hsum := hs.sum_eq
    rw [Nat.min_eq_left hfilling.le] at hsum
    rw [if_neg (by simpa [windowFull] using hfilling), Nat.min_eq_left hfilling,
      recentSum_boxcar hs.inv d hfilling, hsum]
  · have hsum := hs.sum_eq
    obtain ⟨n, hn⟩ : ∃ n, s.flt.len.toNat = n + 1 := ⟨s.flt.len.toNat - 1, by omega⟩
    have holdest := recentSlot_oldest hs.inv
    rw [hn, Nat.add_sub_cancel] at holdest
    rw [Nat.min_eq_right hfull, hn, recentSum_succ, holdest] at hsum
    rw [if_pos (by simpa [windowFull] using hfull), Nat.min_eq_right (by omega), hn,
      recentSum_boxcar hs.inv d (by omega), hsum]
    ring

theorem boxcar_navg (d : Int) (s : State) :
    (boxcar d s).flt.navg.toNat = min (s.flt.navg.toNat + 1) 65535 :=
  Nat.mod_eq_of_lt (by omega)

theorem filterInv_boxcar {s : State} {d : Int} (hd : d.natAbs ≤ 2 ^ Config.impl.adcW - 1)
    (hs : FilterInv s) : FilterInv (boxcar d s) := by
  have hlen : s.flt.len.toNat ≤ 32767 :=
    hs.inv.len_range.2.trans Config.impl.maxRunningFilter_range.2
  refine ⟨inv_boxcar hd hs.inv, fun hfilling => ?_, ?_⟩
  · change (boxcar d s).flt.navg.toNat < s.flt.len.toNat at hfilling
    rw [boxcar_navg] at hfilling
    have hptr := congrArg BitVec.toNat (hs.ptr_of_filling (by omega))
    apply BitVec.eq_of_toNat_eq
    rw [boxcar_ptr hs.inv, boxcar_navg, hptr, Nat.mod_eq_of_lt (by omega)]
    omega
  · rw [boxcar_sum hs hd, boxcar_navg]
    congr 1
    change _ = min _ s.flt.len.toNat
    omega

/-- A step change empties the window (R145). -/
theorem filterInv_stepChange {s : State} (st : CommStep) (hs : FilterInv s) :
    FilterInv (stepChange Config.impl st s) := by
  refine ⟨inv_stepChange st hs.inv, fun _ => rfl, ?_⟩
  change s32 0 = recentSum _ (min 0 _)
  rw [Nat.zero_min]
  rfl

theorem filterInv_zeroCross {s : State} (hs : FilterInv s) :
    FilterInv (zeroCross Config.impl s) := by
  have hinv := inv_zeroCross hs.inv
  rcases zeroCross_cases Config.impl s with ⟨_, e⟩ | ⟨_, e⟩ <;> rw [e] at hinv ⊢ <;>
    exact ⟨hinv, hs.ptr_of_filling, hs.sum_eq⟩

theorem filterInv_battery {s : State} (st : CommStep) (va vb vc : Nat) (hs : FilterInv s) :
    FilterInv (battery Config.impl st va vb vc s) := by
  have hinv := inv_battery st va vb vc hs.inv
  rw [battery_eq] at hinv ⊢
  exact ⟨hinv, hs.ptr_of_filling, hs.sum_eq⟩

theorem filterInv_keptBySample : KeptBySample FilterInv where
  adc_range hs := hs.inv.adc_range
  repeatCheck h hs := ⟨inv_repeatCheck h hs.inv, hs.ptr_of_filling, hs.sum_eq⟩
  stepChange := filterInv_stepChange
  currentIir hi hs := ⟨inv_currentIir hi hs.inv, hs.ptr_of_filling, hs.sum_eq⟩
  boxcar := filterInv_boxcar
  zeroCross := filterInv_zeroCross
  battery := filterInv_battery

/-! ### Reset and the ADC agent -/

theorem filterInv_resetBlock (s : State) : FilterInv (resetBlock s) where
  inv :=
    { duty_le := Nat.zero_le _
      gates_pushed := rfl
      len_range := ⟨le_rfl, Config.impl.maxRunningFilter_range.1⟩
      ptr_lt := Nat.one_pos
      curAcc_lt := Nat.two_pow_pos 31
      batAcc_le := Nat.zero_le _
      win_range := fun _ => Nat.zero_le _
      adc_range := fun _ => truncSample_lt _ _
      win_wf := Memory.wf_nil
      adc_wf := Memory.wf_nil }
  ptr_of_filling := fun _ => rfl
  sum_eq := rfl

/-- Settles O9: what reset leaves of any state meets the invariant, the reset state's too. -/
theorem resetMeetsInvariant : Obligations.ResetMeetsInvariant := by
  rw [Obligations.ResetMeetsInvariant, ← resetBlock_reset]
  exact filterInv_resetBlock State.reset

/-- Every sample of a batch is cut to the converter's width (R72, R74). -/
theorem adcWrites_lt {c : Config} {s : State} {h : Half} {frames : List Frame}
    {p : Nat × BitVec 16} (hp : p ∈ adcWrites c s h frames) : p.2.toNat < 2 ^ c.adcW := by
  simp only [adcWrites, List.mem_flatMap, List.mem_map] at hp
  obtain ⟨f, _, ch, _, rfl⟩ := hp
  exact truncSample_lt c _

theorem adcAt_foldl_adcWrite_lt {c : Config} (ps : List (Nat × BitVec 16)) {s : State} {n : Nat}
    (hps : ∀ p ∈ ps, p.2.toNat < 2 ^ c.adcW) (hs : (adcAt c s n).toNat < 2 ^ c.adcW) :
    (adcAt c (ps.foldl (adcWrite c) s) n).toNat < 2 ^ c.adcW := by
  induction ps generalizing s with
  | nil => exact hs
  | cons p ps ih =>
    refine ih (fun q hq => hps q (List.mem_cons_of_mem _ hq)) ?_
    rw [adcAt_adcWrite]
    split
    · exact hps p List.mem_cons_self
    · exact hs

theorem inv_adcFill {s : State} (h : Half) (frames : List Frame) (hs : Inv s) :
    Inv (adcFill Config.impl h frames s) := by
  have hrange (n : Nat) : (adcAt Config.impl (adcFill Config.impl h frames s) n).toNat <
      2 ^ Config.impl.adcW := by
    have hbatch := adcAt_foldl_adcWrite_lt (adcWrites Config.impl s h frames)
      (fun _ => adcWrites_lt) (hs.adc_range n)
    rw [foldl_adcWrite_eq] at hbatch
    rw [adcFill_eq]
    exact hbatch
  have hwf := adcFill_wf hs.adc_wf h frames
  rw [adcFill_eq] at hrange hwf ⊢
  exact { hs with adc_range := hrange, adc_wf := hwf }

theorem filterInv_adcFill {s : State} (h : Half) (frames : List Frame) (hs : FilterInv s) :
    FilterInv (adcFill Config.impl h frames s) := by
  have hinv := inv_adcFill h frames hs.inv
  rw [adcFill_eq] at hinv ⊢
  exact ⟨hinv, hs.ptr_of_filling, hs.sum_eq⟩

/-! ### Every step -/

/-- A predicate every effect of a move keeps. -/
structure KeptByStep (P : State → Prop) : Prop extends KeptBySample P where
  resetBlock : ∀ s, P (resetBlock s)
  adcFill : ∀ {s} h frames, P s → P (adcFill Config.impl h frames s)
  telZero : ∀ {s}, P s → P (telZero s)
  windowKept : ∀ {s t}, WindowKept s t → (DriverOk s.phd → DriverOk t.phd) → P s → P t

theorem OperationFrame.windowKept {s t : State} (h : OperationFrame s t) : WindowKept s t :=
  ⟨by rw [h.flt], h.win, h.adcbuf, h.adcEpoch⟩

theorem WriteFrame.driverOk {s t : State} (h : WriteFrame s t) (hs : DriverOk s.phd) :
    DriverOk t.phd := by
  rw [h.phd]
  exact hs

section
variable {P : State → Prop} (hP : KeptByStep P)
include hP

theorem KeptByStep.tick {s : State} (hs : P s) : P (tick s) :=
  hP.windowKept ⟨rfl, rfl, rfl, rfl⟩ id hs

theorem KeptByStep.respondOk {s : State} (hs : P s) : P (respondOk s) :=
  hP.windowKept ⟨rfl, rfl, rfl, rfl⟩ id hs

theorem KeptByStep.takeMove (c : Config) {s : State} (hs : P s) : P (takeMove c s).2 := by
  rw [takeMove_state]
  exact hP.windowKept ⟨rfl, rfl, rfl, rfl⟩ id hs

theorem KeptByStep.perform {m : Move} {s t : State} (hs : P s) (h : perform m s = .next t) :
    P t := by
  cases perform_effect h with
  | tick => exact hP.tick hs
  | reset => exact hP.resetBlock s
  | adc half frames => exact hP.adcFill half frames hs
  | sampleTrigger half => exact hP.fltSample half hs
  | sampleBeat w half => exact hP.respondOk (hP.fltSample half hs)
  | write _ ht =>
    have hframe := writeIndex_frame ht
    exact hP.respondOk (hP.windowKept hframe.toWindowKept hframe.driverOk hs)
  | telZero => exact hP.respondOk (hP.telZero hs)
  | operation _ _ ht => exact hP.windowKept ht.windowKept ht.driver hs

theorem KeptByStep.step {s t : State} (hs : P s) (h : step s = .next t) : P t :=
  hP.perform (hP.takeMove Config.impl hs) h

end

theorem inv_telZero {s : State} (hs : Inv s) : Inv (telZero s) :=
  { hs with
    curAcc_lt := Nat.two_pow_pos 31
    batAcc_le := Nat.zero_le _ }

theorem inv_of_windowKept {s t : State} (h : WindowKept s t)
    (hd : DriverOk s.phd → DriverOk t.phd) (hs : Inv s) : Inv t where
  duty_le := (hd ⟨hs.duty_le, hs.gates_pushed⟩).1
  gates_pushed := (hd ⟨hs.duty_le, hs.gates_pushed⟩).2
  len_range := by rw [h.flt]; exact hs.len_range
  ptr_lt := by rw [h.flt]; exact hs.ptr_lt
  curAcc_lt := by rw [h.flt]; exact hs.curAcc_lt
  batAcc_le := by rw [h.flt]; exact hs.batAcc_le
  win_range := by unfold winAt; rw [h.win]; exact hs.win_range
  adc_range := by unfold adcAt; rw [h.adcbuf, h.adcEpoch]; exact hs.adc_range
  win_wf := by rw [h.win]; exact hs.win_wf
  adc_wf := by rw [h.adcbuf, h.adcEpoch]; exact hs.adc_wf

theorem filterInv_of_windowKept {s t : State} (h : WindowKept s t)
    (hd : DriverOk s.phd → DriverOk t.phd) (hs : FilterInv s) : FilterInv t where
  inv := inv_of_windowKept h hd hs.inv
  ptr_of_filling := by rw [h.flt]; exact hs.ptr_of_filling
  sum_eq := by unfold recentSum winAt; rw [h.flt, h.win]; exact hs.sum_eq

theorem inv_keptByStep : KeptByStep Inv :=
  { inv_keptBySample with
    resetBlock := fun s => (filterInv_resetBlock s).inv
    adcFill := inv_adcFill
    telZero := inv_telZero
    windowKept := inv_of_windowKept }

theorem filterInv_keptByStep : KeptByStep FilterInv :=
  { filterInv_keptBySample with
    resetBlock := filterInv_resetBlock
    adcFill := filterInv_adcFill
    telZero := fun hs => ⟨inv_telZero hs.inv, hs.ptr_of_filling, hs.sum_eq⟩
    windowKept := filterInv_of_windowKept }

/-- Settles O10: each effect a move can have keeps the invariant; the accumulators' ranges are
`inv_currentIir` and `inv_battery`, the window's `inv_boxcar`. -/
theorem stepKeepsInvariant : Obligations.StepKeepsInvariant := fun _ _ =>
  inv_keptByStep.step

/-- Settles O11: the ring's bookkeeping is `boxcar_sum`; every other effect leaves the window alone
or empties it. -/
theorem stepKeepsWindowSum : Obligations.StepKeepsWindowSum := fun _ _ =>
  filterInv_keptByStep.step

end Sys2Proof.Machine
end

section
/-! Proofs for `10_state.md` R22: the output ports are written and never read back. -/

namespace Sys2Proof.Machine

open Sys2Proof

/-! ### State transformers blind to the ports -/

/-- The state with earlier events before those of its event port and any response on its response
port. -/
def withPorts (earlier : List (Event × Word)) (r : Option Response) (s : State) : State :=
  { s with events := earlier ++ s.events, response := r }

/-- The transformer does the same whatever the ports hold. -/
def PortBlind (f : State → State) : Prop :=
  ∀ earlier r s, f (withPorts earlier r s) = withPorts earlier r (f s)

theorem PortBlind.id : PortBlind fun s => s := fun _ _ _ => rfl

theorem PortBlind.comp {f g : State → State} (hg : PortBlind g) (hf : PortBlind f) :
    PortBlind fun s => g (f s) := fun earlier r s =>
  (congrArg g (hf earlier r s)).trans (hg earlier r (f s))

theorem PortBlind.ite {p : State → Prop} [∀ s, Decidable (p s)] {f g : State → State}
    (hp : ∀ earlier r s, p (withPorts earlier r s) ↔ p s) (hf : PortBlind f) (hg : PortBlind g) :
    PortBlind fun s => if p s then f s else g s := by
  intro earlier r s
  simp only [hp]
  split
  · exact hf earlier r s
  · exact hg earlier r s

theorem PortBlind.foldl {α : Type} {f : State → α → State} (hf : ∀ a, PortBlind (f · a))
    (l : List α) : PortBlind (l.foldl f) := by
  induction l with
  | nil => exact .id
  | cons a l ih => exact ih.comp (hf a)

/-- An answer to a beat replaces what the response port held. -/
theorem PortBlind.respond {f : State → State} (hf : PortBlind f) (x : Resp) (d : Word)
    (earlier : List (Event × Word)) (r : Option Response) (s : State) :
    respond x d (f (withPorts earlier r s)) =
      { respond x d (f s) with events := earlier ++ (respond x d (f s)).events } := by
  rw [hf]
  rfl

/-! ### SCH -/

theorem emit_portBlind (e : Event) : PortBlind (emit e) := fun earlier r s => by
  simp only [emit, withPorts, List.append_assoc]

theorem schFire_portBlind : PortBlind schFire :=
  .ite (fun _ _ _ => Iff.rfl)
    (fun _ _ s => emit_portBlind s.sch.event _ _ { s with sch := { s.sch with armed := false } })
    .id

/-! ### FLT -/

theorem zeroCross_portBlind (c : Config) : PortBlind (zeroCross c) :=
  .ite (fun _ _ _ => Iff.rfl) (.comp (emit_portBlind .zcd) fun _ _ _ => rfl) (fun _ _ _ => rfl)

theorem frameCore_portBlind (c : Config) (d : Int) : PortBlind (frameCore c d) :=
  .ite (fun _ _ _ => Iff.rfl) .id fun _ _ s => zeroCross_portBlind c _ _ (boxcar d s)

theorem battery_portBlind (c : Config) (st : CommStep) (va vb vc : Nat) :
    PortBlind (battery c st va vb vc) :=
  .ite (fun _ _ _ => Iff.rfl) (fun _ _ _ => rfl) .id

theorem filterFrame_portBlind (c : Config) (st : CommStep) (va vb vc i : Nat) :
    PortBlind (filterFrame c st va vb vc i) := by
  intro earlier r s
  have hcurrent : currentIir c i (withPorts earlier r s) =
    withPorts earlier r (currentIir c i s) := rfl
  have hdiff : phaseDiff c (withPorts earlier r s) st va vb vc = phaseDiff c s st va vb vc := rfl
  rw [filterFrame_eq, hcurrent, hdiff, frameCore_portBlind, battery_portBlind, filterFrame_eq]

theorem sampleBatch_portBlind (c : Config) (h : Half) : PortBlind (sampleBatch c h) := by
  intro earlier r s
  have hstart : (if stepChanged (withPorts earlier r s) then
      stepChange c s.phd.step (withPorts earlier r s) else withPorts earlier r s) =
      withPorts earlier r (if stepChanged s then stepChange c s.phd.step s else s) :=
    PortBlind.ite (p := (stepChanged · = true)) (f := stepChange c s.phd.step)
      (fun _ _ _ => Iff.rfl) (fun _ _ _ => rfl) .id earlier r s
  have hframe (f : Nat) : PortBlind (sampleFrame c h s.phd.step · f) := fun _ _ _ =>
    filterFrame_portBlind c _ _ _ _ _ _ _ _
  exact (congrArg (List.foldl (sampleFrame c h s.phd.step) · (List.range c.nf)) hstart).trans
    (PortBlind.foldl hframe _ earlier r _)

theorem repeatCheck_portBlind (h : Half) : PortBlind (repeatCheck h) := fun _ _ _ => rfl

theorem fltSample_portBlind (c : Config) (h : Half) : PortBlind (fltSample c h) :=
  .ite (fun _ _ _ => Iff.rfl) (repeatCheck_portBlind h)
    fun _ _ s => sampleBatch_portBlind c h _ _ (repeatCheck h s)

/-! ### PID -/

theorem integrate_portBlind (e : Int) : PortBlind (integrate e) :=
  .ite (fun _ _ _ => Iff.rfl) (fun _ _ _ => rfl) .id

theorem brake_portBlind (e : Int) : PortBlind (brake e) :=
  .ite (fun _ _ _ => Iff.rfl)
    (.ite (fun _ _ _ => Iff.rfl) (fun _ _ _ => rfl)
      (.ite (fun _ _ _ => Iff.rfl) (fun _ _ _ => rfl) .id)) .id

theorem setTelDuty_portBlind (c : Config) (x : Int) : PortBlind (setTelDuty c x) := by
  intro earlier r s
  have hclamp : clampDc c (withPorts earlier r s) x = clampDc c s x := rfl
  simp only [setTelDuty, hclamp]
  rfl

theorem forward_portBlind : PortBlind forward := fun _ _ _ => rfl

theorem forward_setTelDuty_portBlind (c : Config) (x : Int) :
    PortBlind fun s => forward (setTelDuty c x s) :=
  forward_portBlind.comp (setTelDuty_portBlind c x)

theorem pidOutput_withPorts (c : Config) (e : Int) (earlier : List (Event × Word))
    (r : Option Response) (s : State) :
    pidOutput c e (withPorts earlier r s) = pidOutput c e s := rfl

theorem slewTo_portBlind (c : Config) (out : Int) : PortBlind (slewTo c out) := fun _ _ _ =>
  setTelDuty_portBlind c _ _ _ _

theorem closedMode_portBlind (c : Config) : PortBlind (closedMode c) := by
  intro earlier r s
  have herror : pidError (withPorts earlier r s) = pidError s := rfl
  simp only [closedMode]
  rw [herror, integrate_portBlind, brake_portBlind, pidOutput_withPorts, slewTo_portBlind]

theorem badMode_portBlind : PortBlind badMode := fun _ _ s =>
  emit_portBlind .fault _ _ { s with sys := { s.sys with pidBadmode := true } }

theorem controlMode_portBlind (c : Config) : PortBlind (controlMode c) :=
  .ite (fun _ _ _ => Iff.rfl)
    (fun _ _ s => forward_setTelDuty_portBlind c (s32 s.tel.setpoint) _ _ s)
    (.ite (fun _ _ _ => Iff.rfl) (forward_portBlind.comp (closedMode_portBlind c))
      badMode_portBlind)

theorem lockedMode_portBlind (c : Config) : PortBlind (lockedMode c) :=
  .ite (fun _ _ _ => Iff.rfl) (fun _ _ s => controlMode_portBlind c _ _ (withLock (lockGate s) s))
    (fun _ _ _ => rfl)

theorem pidStep_portBlind (c : Config) : PortBlind (pidStep c) :=
  .ite (fun _ _ _ => Iff.rfl)
    (fun _ _ s => forward_setTelDuty_portBlind c (s.tel.duty.toNat - maxDcChange s) _ _ s)
    (lockedMode_portBlind c)

/-! ### SYS -/

theorem readIndex_withPorts (earlier : List (Event × Word)) (r : Option Response) (s : State)
    (a : BitVec 8) : readIndex (withPorts earlier r s) a = readIndex s a := rfl

theorem writeIndex_withPorts (earlier : List (Event × Word)) (r : Option Response) (s : State)
    (a : BitVec 8) (v : Word) :
    writeIndex (withPorts earlier r s) a v = (writeIndex s a v).map (withPorts earlier r) := by
  unfold writeIndex
  cases Reg.ofIndex a with
  | none => rfl
  | some x => cases x <;> rfl

/-! ### Every operation -/

/-- The operation at `s`, with any earlier events and any response, answers `t` with the same
earlier events. -/
theorem exec_withPorts {i : Instr} {s t : State} (earlier : List (Event × Word))
    (r : Option Response) (h : exec i s = .next t) :
    exec i (withPorts earlier r s) = .next { t with events := earlier ++ t.events } := by
  cases i <;> cases h
  case sysNop => rfl
  case sysRdreg a =>
    simp only [exec, execSysRdreg, readIndex_withPorts]
    split <;> rfl
  case sysWrreg a v =>
    simp only [exec, execSysWrreg, writeIndex_withPorts]
    cases writeIndex s a v <;> rfl
  case sysTelzero => rfl
  case pidStep => exact congrArg _ ((pidStep_portBlind _).respond .ok 0 earlier r s)
  case fltSample a =>
    simp only [exec, execFltSample]
    cases halfOperand a with
    | some h => exact congrArg _ ((fltSample_portBlind _ h).respond .ok 0 earlier r s)
    | none => rfl
  case schSchedule a delay =>
    simp only [exec, execSchSchedule]
    split <;> rfl
  case schInject a =>
    simp only [exec, execSchInject]
    cases eventOperand a with
    | some e =>
      exact congrArg _ ((emit_portBlind e).respond .ok 0 earlier r s)
    | none => rfl
  case schFire => exact congrArg _ (schFire_portBlind.respond .ok 0 earlier r s)
  case phdInit a cfg =>
    simp only [exec, execPhdInit]
    split <;> rfl
  case phdOff => rfl
  case phdArm => rfl
  case phdSetmode a =>
    simp only [exec, execPhdSetmode]
    split <;> rfl
  case phdSetduty imm =>
    simp only [exec, execPhdSetduty]
    split <;> rfl
  case phdSetstate a =>
    simp only [exec, execPhdSetstate]
    split <;> rfl
  case phdNext => rfl

/-- Settles O18: no part of an operation reads a port, and its answer overwrites the response. -/
theorem portsNeverReadBack : Obligations.PortsNeverReadBack := fun _ _ _ earlier r h =>
  exec_withPorts earlier r h

end Sys2Proof.Machine
end

section
/-! Proofs for `20_memory.md`: who writes WIN and ADCBUF (R39, R70, R74), and what an ADC step
leaves in the sample buffer (R73, R74). -/

namespace Sys2Proof.Machine

open Sys2Proof

/-! ### Who writes the memories -/

theorem winKept_of_win {s t : State} (h : t.win = s.win) : WinKept s t := fun k =>
  congrArg (Memory.read winDefault · k) h

theorem adcKept_of_adcbuf {s t : State} (hbuf : t.adcbuf = s.adcbuf)
    (hepoch : t.adcEpoch = s.adcEpoch) : AdcKept s t := by
  unfold AdcKept adcAt
  rw [hbuf, hepoch]
  exact fun _ => rfl

/-- `MoveEffect` does not say which beats sample, so the operations are gone through here: all but
FLT.SAMPLE leave WIN alone (R39). -/
theorem exec_win {i : Instr} {s t : State} (hi : ∀ a, i ≠ .fltSample a) (h : exec i s = .next t) :
    t.win = s.win := by
  cases i <;> cases h
  case fltSample a => exact absurd rfl (hi a)
  case pidStep => exact (pidStep_frame s).win
  case schFire => exact (schFire_frame s).win
  case sysWrreg a v =>
    split
    next ht => exact (writeIndex_frame ht).win
    next => rfl
  case sysNop | sysTelzero | phdOff | phdArm | phdNext => rfl
  case sysRdreg | schSchedule | schInject | phdInit | phdSetmode | phdSetduty | phdSetstate =>
    split <;> rfl

theorem perform_win {m : Move} {s t : State} (h : perform m s = .next t) (hreset : m ≠ .reset)
    (hsvc : m ≠ .fltsvc) (hbeat : ∀ w a, m = .beat w → decode w ≠ .ok (.fltSample a)) :
    t.win = s.win := by
  cases m with
  | beat w =>
    cases hw : decode w with
    | ok i =>
      rw [perform_beat_of_decode hw] at h
      exact exec_win (fun a hi => hbeat w a rfl (hi ▸ hw)) h
    | error e =>
      rw [perform_beat_of_illegal hw] at h
      cases h
      rfl
  | tick => cases h; rfl
  | adc half frames => cases h; rw [adcFill_eq]
  | fltsvc => exact absurd rfl hsvc
  | schsvc => cases h; exact (schsvc_frame s).win
  | tmo => cases h; exact (schFire_frame s).win
  | reset => exact absurd rfl hreset

theorem perform_adcKept {m : Move} {s t : State} (h : perform m s = .next t) (hreset : m ≠ .reset)
    (hadc : ∀ half frames, m ≠ .adc half frames) : AdcKept s t := by
  cases perform_effect h with
  | tick => exact adcKept_of_adcbuf rfl rfl
  | reset => exact absurd rfl hreset
  | adc half frames => exact absurd rfl (hadc half frames)
  | sampleTrigger half =>
    have hframe := fltSample_frame Config.impl half s
    exact adcKept_of_adcbuf hframe.adcbuf hframe.adcEpoch
  | sampleBeat w half =>
    have hframe := fltSample_frame Config.impl half s
    exact adcKept_of_adcbuf hframe.adcbuf hframe.adcEpoch
  | write _ ht =>
    have hframe := writeIndex_frame ht
    exact adcKept_of_adcbuf hframe.adcbuf hframe.adcEpoch
  | telZero => exact adcKept_of_adcbuf rfl rfl
  | operation _ _ ht => exact adcKept_of_adcbuf ht.adcbuf ht.adcEpoch

/-- Settles O16: WIN by going through the operations, ADCBUF by the effects a move can have. -/
theorem memoryWriters : Obligations.MemoryWriters := fun _ _ _ h hreset =>
  ⟨fun hsvc hbeat => winKept_of_win (perform_win h hreset hsvc hbeat), perform_adcKept h hreset⟩

/-! ### The samples of an ADC step -/

theorem adcSampleOf_lt (c : Config) (s : State) (frames : List Frame) (f ch : Nat) :
    (adcSampleOf c s frames f ch).toNat < 2 ^ c.adcW :=
  truncSample_lt c _

theorem adcSampleOf_given (c : Config) (s : State) {frames : List Frame} {f : Nat} {fr : Frame}
    (hfr : frames[f]? = some fr) (ch : Nat) :
    (adcSampleOf c s frames f ch).toNat = (frameChannel fr ch).toNat % 2 ^ c.adcW := by
  unfold adcSampleOf
  rw [hfr]
  exact truncSample_toNat c _

theorem mem_adcWrites {c : Config} {s : State} {h : Half} {frames : List Frame}
    {p : Nat × BitVec 16} :
    p ∈ adcWrites c s h frames ↔
      ∃ f < c.nf, ∃ ch < 4, (adcAddr c h f ch, adcSampleOf c s frames f ch) = p := by
  simp only [adcWrites, List.mem_flatMap, List.mem_map, List.mem_range]

theorem adcAt_adcFill (c : Config) (h : Half) (frames : List Frame) (s : State) (n : Nat) :
    adcAt c (adcFill c h frames s) n =
      adcAt c ((adcWrites c s h frames).foldl (adcWrite c) s) n := by
  unfold adcFill setBatchFlag
  split <;> rfl

section
variable (c : Config) (frames : List Frame) (s : State) {f ch : Nat} (hf : f < c.nf) (hch : ch < 4)
include hf hch

/-- The element of (frame, channel) is written once, since the addresses of a half are distinct. -/
theorem adcRead_adcFill_same (h : Half) :
    adcRead c (adcFill c h frames s) h f ch = (adcSampleOf c s frames f ch).toNat := by
  unfold adcRead
  rw [adcAt_adcFill]
  refine congrArg BitVec.toNat (adcAt_foldl_of_mem c _ s _ _
    (mem_adcWrites.2 ⟨f, hf, ch, hch, rfl⟩) fun p hp haddr => ?_)
  obtain ⟨f', hf', ch', hch', rfl⟩ := mem_adcWrites.1 hp
  obtain ⟨_, rfl, rfl⟩ := adcAddr_inj hf' hf hch' hch haddr
  rfl

/-- No write of a half's batch reaches the other half. -/
theorem adcRead_adcFill_other {h h' : Half} (hne : h' ≠ h) :
    adcRead c (adcFill c h frames s) h' f ch = adcRead c s h' f ch := by
  unfold adcRead
  rw [adcAt_adcFill, adcAt_foldl_of_notMem]
  intro p hp haddr
  obtain ⟨f', hf', ch', hch', rfl⟩ := mem_adcWrites.1 hp
  obtain ⟨rfl, _, _⟩ := adcAddr_inj hf' hf hch' hch haddr
  exact hne rfl

end

/-! ### The registers after an ADC step -/

/-- Of the filter's registers an ADC step sets the flag of its half (R74). -/
theorem adcFill_flt (c : Config) (h : Half) (frames : List Frame) (s : State) :
    (adcFill c h frames s).flt =
      { s.flt with
        hf := if h = 0 then true else s.flt.hf
        ff := if h = 0 then s.flt.ff else true } := by
  unfold adcFill setBatchFlag
  rw [foldl_adcWrite_eq]
  by_cases hh : h = 0
  · simp only [if_pos hh]
  · simp only [if_neg hh]

/-- The batch flags are seen in `FLT_CTRL` alone, register 0x20 (R31). -/
theorem regsKept_adcFill (c : Config) (h : Half) (frames : List Frame) (s : State) :
    RegsKept [0x20] s (adcFill c h frames s) := by
  refine regsKept_of_readReg fun r hr => ?_
  rw [adcFill_eq]
  cases r with
  | fltCtrl => exact absurd (List.mem_singleton.2 rfl) hr
  | _ => rfl

theorem half_flip_ne (h : Half) : 1 - h ≠ h := by
  revert h
  decide

/-- Settles O49: the batch reads back because the addresses of ADCBUF's elements are distinct
(`adcAddr_inj`). -/
theorem adcFillResult : Obligations.AdcFillResult := by
  intro h frames s
  refine ⟨_, rfl, fun f ch hf hch => ⟨fun fr hfr => ?_, ?_, ?_⟩, adcFill_flt _ h frames s, ?_, ?_,
    regsKept_adcFill _ h frames s, winKept_of_win ?_, ?_⟩
  · rw [adcRead_adcFill_same _ _ _ hf hch]
    exact adcSampleOf_given _ s hfr ch
  · rw [adcRead_adcFill_same _ _ _ hf hch]
    exact adcSampleOf_lt _ s frames f ch
  · exact adcRead_adcFill_other _ _ _ hf hch (half_flip_ne h)
  · rw [adcFill_eq]
  · rw [adcFill_eq]
  · rw [adcFill_eq]
  · rw [adcFill_eq]
    exact ⟨rfl, rfl, rfl⟩

end Sys2Proof.Machine
end

section
/-! Proofs for `30_encoding.md`: the encoder and the decoder undo each other (R93, R94, R96), a beat
is illegal in exactly the five cases of R95, and the decoder is the opcode table's match and mask
(R93). The decoder is taken in its three stages: the reserved field, the operation with the format
of its fields (`decodeOperation_dispatch`), and the operand checks. -/

namespace Sys2Proof

/-! ### A beat and its fields -/

/-- UNIT and FUNC of a beat, the pair the opcode map is indexed by (R93). -/
def opcode (w : Beat) : Nat × Nat := ((unitField w).toNat, (funcField w).toNat)

theorem opcode_mkBeat (u f : BitVec 4) (a : BitVec 8) (imm : Word) :
    opcode (mkBeat u f a imm) = (u.toNat, f.toNat) := by
  rw [opcode, unitField_mkBeat, funcField_mkBeat]

/-- The five fields leave no bit of a beat out (R90). -/
theorem mkBeat_fields {w : Beat} (h : rsvField w = 0) :
    mkBeat (unitField w) (funcField w) (aField w) (immField w) = w := by
  apply BitVec.eq_of_toNat_eq
  have hrsv : (rsvField w).toNat = 0 := by rw [h]; rfl
  have hlt := w.isLt
  simp only [rsvField, BitVec.extractLsb'_toNat, Nat.shiftRight_eq_div_pow] at hrsv
  simp only [toNat_mkBeat, unitField, funcField, aField, immField, BitVec.extractLsb'_toNat,
    Nat.shiftRight_eq_div_pow]
  omega

/-! ### The reserved field and the operand checks -/

/-- The law of every instruction's beat, over all instructions. -/
theorem encodeFields (i : Instr) : Laws.EncodeFields.Statement i := by
  cases i with
  | sysNop => exact Laws.EncodeFields.sysNop
  | sysRdreg a => exact Laws.EncodeFields.sysRdreg a
  | sysWrreg a imm => exact Laws.EncodeFields.sysWrreg a imm
  | sysTelzero => exact Laws.EncodeFields.sysTelzero
  | pidStep => exact Laws.EncodeFields.pidStep
  | fltSample a => exact Laws.EncodeFields.fltSample a
  | schSchedule a imm => exact Laws.EncodeFields.schSchedule a imm
  | schInject a => exact Laws.EncodeFields.schInject a
  | schFire => exact Laws.EncodeFields.schFire
  | phdInit a imm => exact Laws.EncodeFields.phdInit a imm
  | phdOff => exact Laws.EncodeFields.phdOff
  | phdArm => exact Laws.EncodeFields.phdArm
  | phdSetmode a => exact Laws.EncodeFields.phdSetmode a
  | phdSetduty imm => exact Laws.EncodeFields.phdSetduty imm
  | phdSetstate a => exact Laws.EncodeFields.phdSetstate a
  | phdNext => exact Laws.EncodeFields.phdNext

theorem decode_of_rsv_ne_zero {w : Beat} (h : rsvField w ≠ 0) :
    decode w = .error .reservedBits := by
  rw [decode, if_pos h]

theorem decode_of_rsv_zero {w : Beat} (h : rsvField w = 0) :
    decode w = (decodeOperation w).bind checkOperands := by
  rw [decode, if_neg (not_not.2 h)]

section Checks

variable {P : Prop} [Decidable P] {i j : Instr} {e e' : Illegal}

theorem check_eq_ok_iff :
    (if P then .ok i else .error e : Except Illegal Instr) = .ok j ↔ P ∧ i = j := by
  by_cases h : P <;> simp [h]

theorem check_eq_error_iff :
    (if P then .ok i else .error e : Except Illegal Instr) = .error e' ↔ ¬P ∧ e = e' := by
  by_cases h : P <;> simp [h]

end Checks

/-- The operand checks accept the well-formed instructions and alter none. -/
theorem checkOperands_eq_ok_iff {i j : Instr} :
    checkOperands i = .ok j ↔ i.WellFormed ∧ i = j := by
  cases i with
  | fltSample a => simp [checkOperands, check_eq_ok_iff, Instr.WellFormed, Instr.wellFormed]
  | schSchedule a d => simp [checkOperands, check_eq_ok_iff, Instr.WellFormed, Instr.wellFormed]
  | schInject a => simp [checkOperands, check_eq_ok_iff, Instr.WellFormed, Instr.wellFormed]
  | _ => simp [checkOperands, Instr.WellFormed, Instr.wellFormed]

/-- Cases 4 and 5 of R95, from the opcode and field A. -/
def operandCase (pair : Nat × Nat) (a : Nat) : Option Illegal :=
  if pair = (2, 0) ∧ a > 1 then some .badHalf
  else if (pair = (3, 0) ∨ pair = (3, 1)) ∧ a > 9 then some .badEvent
  else none

theorem checkOperands_eq_error_iff (i : Instr) (e : Illegal) :
    checkOperands i = .error e ↔
      operandCase (opcode (encode i)) (aField (encode i)).toNat = some e := by
  cases i with
  | fltSample a =>
    simp [checkOperands, check_eq_error_iff, operandCase, encode, opcode_mkBeat, aField_mkBeat]
  | schSchedule a d =>
    simp [checkOperands, check_eq_error_iff, operandCase, encode, opcode_mkBeat, aField_mkBeat]
  | schInject a =>
    simp [checkOperands, check_eq_error_iff, operandCase, encode, opcode_mkBeat, aField_mkBeat]
  | _ => simp [checkOperands, operandCase, encode, opcode_mkBeat]

/-! ### The operation and its format -/

/-- The fields the operation's format does not use are 0 (R91, R95 case 3). -/
def FormatOk (w : Beat) : Prop :=
  (opcode w ∈ Claim.unusedA → aField w = 0) ∧ (opcode w ∈ Claim.unusedImm → immField w = 0)

/-- What the opcode map can answer for a beat: cases 2 and 3 of R95, or an instruction whose beat
has the same fields. -/
inductive Dispatch (w : Beat) : Except Illegal Instr → Prop
  | unknown (hop : opcode w ∉ Claim.operationPairs) : Dispatch w (.error .unknownOperation)
  | unused (hop : opcode w ∈ Claim.operationPairs) (hfmt : ¬FormatOk w) :
      Dispatch w (.error .unusedField)
  | read {i : Instr} (hop : opcode w ∈ Claim.operationPairs) (hfmt : FormatOk w)
      (henc : encode i = mkBeat (unitField w) (funcField w) (aField w) (immField w)) :
      Dispatch w (.ok i)

section Formats

variable {w : Beat} {u f : Nat}

theorem fields_of_opcode (hw : opcode w = (u, f)) :
    unitField w = BitVec.ofNat 4 u ∧ funcField w = BitVec.ofNat 4 f := by
  obtain ⟨rfl, rfl⟩ := Prod.mk.inj hw
  simp

/-- A format's answer is dispatched when its test is that of the opcode's unused fields. -/
theorem dispatch_ite {P : Prop} [Decidable P] {i : Instr} (hw : opcode w = (u, f))
    (hop : (u, f) ∈ Claim.operationPairs) (hP : P ↔ FormatOk w)
    (henc : P → encode i =
      mkBeat (BitVec.ofNat 4 u) (BitVec.ofNat 4 f) (aField w) (immField w)) :
    Dispatch w (if P then .ok i else .error .unusedField) := by
  rw [← hw] at hop
  obtain ⟨hu, hf⟩ := fields_of_opcode hw
  rw [← hu, ← hf] at henc
  by_cases h : P
  · rw [if_pos h]
    exact .read hop (hP.1 h) (henc h)
  · rw [if_neg h]
    exact .unused hop (mt hP.2 h)

theorem dispatch_formatN {i : Instr} (hw : opcode w = (u, f))
    (hop : (u, f) ∈ Claim.operationPairs) (hA : (u, f) ∈ Claim.unusedA)
    (hI : (u, f) ∈ Claim.unusedImm)
    (henc : encode i = mkBeat (BitVec.ofNat 4 u) (BitVec.ofNat 4 f) 0 0) :
    Dispatch w (formatN w i) :=
  dispatch_ite hw hop (by simp [FormatOk, hw, hA, hI]) fun ⟨ha, hi⟩ => by rw [henc, ha, hi]

theorem dispatch_formatA {k : BitVec 8 → Instr} (hw : opcode w = (u, f))
    (hop : (u, f) ∈ Claim.operationPairs) (hA : (u, f) ∉ Claim.unusedA)
    (hI : (u, f) ∈ Claim.unusedImm)
    (henc : ∀ a, encode (k a) = mkBeat (BitVec.ofNat 4 u) (BitVec.ofNat 4 f) a 0) :
    Dispatch w (formatA w k) :=
  dispatch_ite hw hop (by simp [FormatOk, hw, hA, hI]) fun hi => by rw [henc, hi]

theorem dispatch_formatI {k : Word → Instr} (hw : opcode w = (u, f))
    (hop : (u, f) ∈ Claim.operationPairs) (hA : (u, f) ∈ Claim.unusedA)
    (hI : (u, f) ∉ Claim.unusedImm)
    (henc : ∀ imm, encode (k imm) = mkBeat (BitVec.ofNat 4 u) (BitVec.ofNat 4 f) 0 imm) :
    Dispatch w (formatI w k) :=
  dispatch_ite hw hop (by simp [FormatOk, hw, hA, hI]) fun ha => by rw [henc, ha]

theorem dispatch_formatAI {k : BitVec 8 → Word → Instr} (hw : opcode w = (u, f))
    (hop : (u, f) ∈ Claim.operationPairs) (hA : (u, f) ∉ Claim.unusedA)
    (hI : (u, f) ∉ Claim.unusedImm)
    (henc : ∀ a imm, encode (k a imm) = mkBeat (BitVec.ofNat 4 u) (BitVec.ofNat 4 f) a imm) :
    Dispatch w (formatAI w k) :=
  .read (hw ▸ hop) (by simp [FormatOk, hw, hA, hI]) (by
    obtain ⟨hu, hf⟩ := fields_of_opcode hw
    rw [henc, hu, hf])

end Formats

/-- The opcode map, one case per format: each row's format is the one the encoder writes (R91,
R93). -/
theorem decodeOperation_dispatch (w : Beat) : Dispatch w (decodeOperation w) := by
  unfold decodeOperation
  split
  -- format N: SYS.NOP, SYS.TELZERO, PID.STEP, SCH.FIRE, PHD.OFF, PHD.ARM, PHD.NEXT
  case h_1 hu hf | h_4 hu hf | h_5 hu hf | h_9 hu hf | h_11 hu hf | h_12 hu hf | h_16 hu hf =>
    exact dispatch_formatN (Prod.ext hu hf) (by decide) (by decide) (by decide) rfl
  -- format A: SYS.RDREG, FLT.SAMPLE, SCH.INJECT, PHD.SETMODE, PHD.SETSTATE
  case h_2 hu hf | h_6 hu hf | h_8 hu hf | h_13 hu hf | h_15 hu hf =>
    exact dispatch_formatA (Prod.ext hu hf) (by decide) (by decide) (by decide) fun _ => rfl
  -- format AI: SYS.WRREG, SCH.SCHEDULE, PHD.INIT
  case h_3 hu hf | h_7 hu hf | h_10 hu hf =>
    exact dispatch_formatAI (Prod.ext hu hf) (by decide) (by decide) (by decide) fun _ _ => rfl
  -- format I: PHD.SETDUTY
  case h_14 hu hf =>
    exact dispatch_formatI (Prod.ext hu hf) (by decide) (by decide) (by decide) fun _ => rfl
  case h_17 =>
    refine .unknown ?_
    simp_all [opcode, Claim.operationPairs]

/-! ### The round trips -/

theorem decodeOperation_eq_ok {w : Beat} {i : Instr} (h : decodeOperation w = .ok i) :
    encode i = mkBeat (unitField w) (funcField w) (aField w) (immField w) := by
  have hw := decodeOperation_dispatch w
  rw [h] at hw
  cases hw with
  | read _ _ henc => exact henc

section FormatsRead

variable (u f : BitVec 4) (a : BitVec 8) (imm : Word)

theorem formatN_mkBeat (i : Instr) : formatN (mkBeat u f 0 0) i = .ok i :=
  if_pos ⟨aField_mkBeat u f 0 0, immField_mkBeat u f 0 0⟩

theorem formatA_mkBeat (k : BitVec 8 → Instr) : formatA (mkBeat u f a 0) k = .ok (k a) := by
  rw [formatA, if_pos (immField_mkBeat u f a 0), aField_mkBeat]

theorem formatI_mkBeat (k : Word → Instr) : formatI (mkBeat u f 0 imm) k = .ok (k imm) := by
  rw [formatI, if_pos (aField_mkBeat u f 0 imm), immField_mkBeat]

theorem formatAI_mkBeat (k : BitVec 8 → Word → Instr) :
    formatAI (mkBeat u f a imm) k = .ok (k a imm) := by
  rw [formatAI, aField_mkBeat, immField_mkBeat]

end FormatsRead

/-- The opcode map reads every instruction's beat back: UNIT and FUNC select the instruction's row,
and the row's format keeps every operand bit. -/
theorem decodeOperation_encode (i : Instr) : decodeOperation (encode i) = .ok i := by
  cases i <;> simp only [encode, decodeOperation, unitField_mkBeat, funcField_mkBeat]
  case sysNop | sysTelzero | pidStep | schFire | phdOff | phdArm | phdNext =>
    exact formatN_mkBeat _ _ _
  case sysRdreg | fltSample | schInject | phdSetmode | phdSetstate =>
    exact formatA_mkBeat _ _ _ _
  case phdSetduty => exact formatI_mkBeat _ _ _ _
  case sysWrreg | schSchedule | phdInit => exact formatAI_mkBeat _ _ _ _ _

theorem decode_eq_ok_iff {w : Beat} {i : Instr} :
    decode w = .ok i ↔ rsvField w = 0 ∧ decodeOperation w = .ok i ∧ i.WellFormed := by
  by_cases hrsv : rsvField w = 0
  case neg => simp only [decode_of_rsv_ne_zero hrsv, hrsv, reduceCtorEq, false_and]
  case pos =>
    rw [decode_of_rsv_zero hrsv]
    cases hop : decodeOperation w with
    | error e => simp [Except.bind]
    | ok j =>
      simp only [Except.bind, checkOperands_eq_ok_iff, Except.ok.injEq, hrsv, true_and]
      constructor
      · rintro ⟨hj, rfl⟩
        exact ⟨rfl, hj⟩
      · rintro ⟨rfl, hj⟩
        exact ⟨hj, rfl⟩

/-- Settles O1: the beat's reserved field is 0, the opcode map reads the instruction back, and the
operand checks accept it. -/
theorem decodeEncodeRoundTrip : Obligations.DecodeEncodeRoundTrip := fun i hi =>
  decode_eq_ok_iff.2 ⟨(encodeFields i).1, decodeOperation_encode i, hi⟩

/-- Settles O2: the instruction's beat has the fields of the beat read, which are the whole beat. -/
theorem encodeDecodeRoundTrip : Obligations.EncodeDecodeRoundTrip := by
  intro w i h
  obtain ⟨hrsv, hop, hi⟩ := decode_eq_ok_iff.1 h
  exact ⟨(decodeOperation_eq_ok hop).trans (mkBeat_fields hrsv), hi⟩

/-! ### The five illegal cases -/

theorem toNat_ne_zero_iff {n : Nat} {x : BitVec n} : x.toNat ≠ 0 ↔ x ≠ 0 := by
  rw [Ne, Ne, ← BitVec.toNat_inj, BitVec.ofNat_eq_ofNat, BitVec.toNat_zero]

theorem not_formatOk_iff (w : Beat) :
    ¬FormatOk w ↔ (opcode w ∈ Claim.unusedA ∧ (aField w).toNat ≠ 0) ∨
      (opcode w ∈ Claim.unusedImm ∧ (immField w).toNat ≠ 0) := by
  rw [FormatOk, not_and_or, Classical.not_imp, Classical.not_imp, toNat_ne_zero_iff,
    toNat_ne_zero_iff]

/-- The five cases of R95, stage by stage as the decoder tests them. -/
theorem illegalCase_eq (w : Beat) [Decidable (FormatOk w)] :
    Claim.illegalCase w =
      if rsvField w ≠ 0 then some .reservedBits
      else if opcode w ∉ Claim.operationPairs then some .unknownOperation
      else if ¬FormatOk w then some .unusedField
      else operandCase (opcode w) (aField w).toNat :=
  if_congr toNat_ne_zero_iff rfl (if_congr Iff.rfl rfl (if_congr (not_formatOk_iff w).symm rfl rfl))

theorem decode_eq_error_iff (w : Beat) (e : Illegal) :
    decode w = .error e ↔ Claim.illegalCase w = some e := by
  classical
  rw [illegalCase_eq]
  by_cases hrsv : rsvField w = 0
  case neg =>
    rw [decode_of_rsv_ne_zero hrsv, if_pos hrsv, Except.error.injEq, Option.some.injEq]
  case pos =>
    rw [decode_of_rsv_zero hrsv, if_neg (not_not.2 hrsv)]
    have hw := decodeOperation_dispatch w
    cases hx : decodeOperation w with rw [hx] at hw
    | error e' =>
      cases hw with
      | unknown hop => simp [Except.bind, hop]
      | unused hop hfmt => simp [Except.bind, hop, hfmt]
    | ok i =>
      cases hw with
      | read hop hfmt henc =>
        have hi : encode i = w := henc.trans (mkBeat_fields hrsv)
        rw [if_neg (not_not.2 hop), if_neg (not_not.2 hfmt), ← hi]
        exact checkOperands_eq_error_iff i e

/-- Settles O4: the stages of the decoder are the five cases in their order, and the answer to an
illegal beat writes the response alone. -/
theorem illegalBeatsExactly : Obligations.IllegalBeatsExactly := by
  refine fun w => ⟨decode_eq_error_iff w, fun s hw => ?_⟩
  obtain ⟨e, he⟩ := Option.ne_none_iff_exists'.1 hw
  exact Machine.perform_beat_of_illegal ((decode_eq_error_iff w e).2 he) s

/-- A beat that is in none of the five cases is read as an instruction. -/
theorem exists_decode_of_illegalCase_none {w : Beat} (h : Claim.illegalCase w = none) :
    ∃ i, decode w = .ok i := by
  cases hw : decode w with
  | ok i => exact ⟨i, rfl⟩
  | error e => rw [decode_eq_error_iff, h] at hw; cases hw

/-- Settles O5: the legal words are the beats of their operations, the other two are in
cases 2 and 5 of R95. -/
theorem sampleWordsDecode : Obligations.SampleWordsDecode :=
  ⟨decodeEncodeRoundTrip (.sysWrreg 0x32 0xFFFFFF38) (by decide),
    decodeEncodeRoundTrip .pidStep (by decide),
    decodeEncodeRoundTrip (.fltSample 1) (by decide),
    decodeEncodeRoundTrip (.schSchedule 7 400) (by decide),
    decodeEncodeRoundTrip (.phdSetduty 420) (by decide),
    (decode_eq_error_iff _ _).2 (by decide), (decode_eq_error_iff _ _).2 (by decide)⟩

/-! ### The opcode table -/

theorem row_tests_opcode_and_rsv : ∀ r ∈ opcodeTable,
    unitField r.mask = .allOnes 4 ∧ funcField r.mask = .allOnes 4 ∧
      rsvField r.mask = .allOnes 16 ∧ rsvField r.pattern = 0 := by decide

theorem row_opcode_mem : ∀ r ∈ opcodeTable, opcode r.pattern ∈ Claim.operationPairs := by decide

theorem row_tests_unusedA : ∀ r ∈ opcodeTable, opcode r.pattern ∈ Claim.unusedA →
    aField r.mask = .allOnes 8 ∧ aField r.pattern = 0 := by decide

theorem row_tests_unusedImm : ∀ r ∈ opcodeTable, opcode r.pattern ∈ Claim.unusedImm →
    immField r.mask = .allOnes 32 ∧ immField r.pattern = 0 := by decide

theorem row_tests_half : ∀ r ∈ opcodeTable, opcode r.pattern = (2, 0) →
    aField r.mask = 0xFE ∧ aField r.pattern = 0 := by decide

theorem row_of_event : ∀ r ∈ opcodeTable, opcode r.pattern = (3, 0) ∨ opcode r.pattern = (3, 1) →
    r.mnemonic = "SCH.SCHEDULE" ∨ r.mnemonic = "SCH.INJECT" := by decide

/-- The rows are disjoint: no two hold the same UNIT and FUNC. -/
theorem row_eq_of_opcode : ∀ r ∈ opcodeTable, ∀ r' ∈ opcodeTable,
    opcode r.pattern = opcode r'.pattern → r = r' := by decide

/-- The mask of FLT.SAMPLE leaves out the one bit that holds a half. -/
theorem halfOk_of_mask {a : BitVec 8} (h : a &&& 0xFE = 0) : HalfOk a := by
  revert h; revert a; decide

section Selection

variable {r r' : OpcodeRow} {w : Beat}

/-- A field tested in full is the row's own. -/
theorem eq_of_full_mask {n : Nat} {x m p : BitVec n} (h : x &&& m = p) (hm : m = .allOnes n) :
    x = p := by
  rw [← h, hm, BitVec.and_allOnes]

/-- A row is selected field by field. -/
theorem OpcodeRow.Selects.field (h : r.Selects w) (start len : Nat) :
    w.extractLsb' start len &&& r.mask.extractLsb' start len = r.pattern.extractLsb' start len := by
  rw [← BitVec.extractLsb'_and, h]

theorem OpcodeRow.Selects.opcode_eq (h : r.Selects w) (hr : r ∈ opcodeTable) :
    opcode w = opcode r.pattern := by
  obtain ⟨hunit, hfunc, -, -⟩ := row_tests_opcode_and_rsv r hr
  have hu : unitField w = unitField r.pattern := eq_of_full_mask (h.field 60 4) hunit
  have hf : funcField w = funcField r.pattern := eq_of_full_mask (h.field 56 4) hfunc
  rw [opcode, hu, hf, opcode]

theorem OpcodeRow.Selects.rsv_eq_zero (h : r.Selects w) (hr : r ∈ opcodeTable) :
    rsvField w = 0 := by
  obtain ⟨-, -, hmask, hpattern⟩ := row_tests_opcode_and_rsv r hr
  exact (eq_of_full_mask (h.field 32 16) hmask).trans hpattern

theorem OpcodeRow.Selects.formatOk (h : r.Selects w) (hr : r ∈ opcodeTable) : FormatOk w := by
  rw [FormatOk, h.opcode_eq hr]
  constructor
  · intro hA
    obtain ⟨hmask, hpattern⟩ := row_tests_unusedA r hr hA
    exact (eq_of_full_mask (h.field 48 8) hmask).trans hpattern
  · intro hI
    obtain ⟨hmask, hpattern⟩ := row_tests_unusedImm r hr hI
    exact (eq_of_full_mask (h.field 0 32) hmask).trans hpattern

theorem OpcodeRow.Selects.operandCase_eq_none (h : r.Selects w) (hr : r ∈ opcodeTable)
    (hevent : r.mnemonic = "SCH.SCHEDULE" ∨ r.mnemonic = "SCH.INJECT" → EventOk (aField w)) :
    operandCase (opcode w) (aField w).toNat = none := by
  rw [operandCase, h.opcode_eq hr, if_neg, if_neg]
  · rintro ⟨hop, ha⟩
    exact absurd (hevent (row_of_event r hr hop)) (not_le.2 ha)
  · rintro ⟨hop, ha⟩
    obtain ⟨hmask, hpattern⟩ := row_tests_half r hr hop
    have hfield : aField w &&& aField r.mask = aField r.pattern := h.field 48 8
    rw [hmask, hpattern] at hfield
    exact absurd (halfOk_of_mask hfield) (not_le.2 ha)

/-- Of the five cases of R95 a row excludes all but an event code above 9. -/
theorem OpcodeRow.Selects.exists_decode (h : r.Selects w) (hr : r ∈ opcodeTable)
    (hevent : r.mnemonic = "SCH.SCHEDULE" ∨ r.mnemonic = "SCH.INJECT" → EventOk (aField w)) :
    ∃ i, decode w = .ok i := by
  classical
  apply exists_decode_of_illegalCase_none
  rw [illegalCase_eq, if_neg (not_not.2 (h.rsv_eq_zero hr)),
    if_neg (not_not.2 (h.opcode_eq hr ▸ row_opcode_mem r hr)), if_neg (not_not.2 (h.formatOk hr)),
    h.operandCase_eq_none hr hevent]

theorem row_eq_of_selects (hr : r ∈ opcodeTable) (hr' : r' ∈ opcodeTable) (h : r.Selects w)
    (h' : r'.Selects w) : r = r' :=
  row_eq_of_opcode r hr r' hr' ((h.opcode_eq hr).symm.trans (h'.opcode_eq hr'))

end Selection

theorem exists_row_of_decode {w : Beat} {i : Instr} (h : decode w = .ok i) :
    ∃ r ∈ opcodeTable, r.mnemonic = mnemonic i ∧ r.Selects w := by
  obtain ⟨rfl, hi⟩ := encodeDecodeRoundTrip w i h
  exact (encodeFields i).2 hi

/-- Settles O3: a selected row leaves none of the five cases, so the beat decodes, and the row
of the instruction read is the selected one, since the rows are disjoint. -/
theorem decoderAgreesWithOpcodeTable : Obligations.DecoderAgreesWithOpcodeTable := by
  refine ⟨fun w i => exists_row_of_decode, fun w r hr h hevent => ?_,
    fun w r r' hr hr' => row_eq_of_selects hr hr'⟩
  obtain ⟨i, hi⟩ := h.exists_decode hr hevent
  obtain ⟨r', hr', hmnemonic, h'⟩ := exists_row_of_decode hi
  exact ⟨i, hi, by rw [← hmnemonic, row_eq_of_selects hr hr' h h']⟩

end Sys2Proof
end

section
/-! Proofs for `40_system.md`: what SYS.NOP, SYS.RDREG, SYS.WRREG and SYS.TELZERO answer and which
registers they change (R110 to R113). -/

namespace Sys2Proof.Machine

open Sys2Proof

/-! ### Frames past an answer -/

theorem KeptBut.refl (except : List Nat) (s : State) : KeptBut except s s :=
  ⟨fun _ _ => rfl, fun _ => rfl, fun _ => rfl, rfl, rfl, rfl⟩

/-- The response port is no register and no memory (R22, R92). -/
theorem KeptBut.respond {except : List Nat} {s t : State} (h : KeptBut except s t) (r : Resp)
    (d : Word) : KeptBut except s (respond r d t) := by
  obtain ⟨hregs, hwin, hadc, hscript⟩ := h
  exact ⟨hregs, hwin, hadc, hscript⟩

theorem readIndex_respond (r : Resp) (d : Word) (s : State) (a : BitVec 8) :
    readIndex (respond r d s) a = readIndex s a := rfl

/-! ### SYS.NOP -/

/-- Settles O19: the beat is SYS.NOP's encoding, and the operation only answers. -/
theorem nopResult : Obligations.NopResult :=
  ⟨decodeEncodeRoundTrip .sysNop rfl, fun _ => rfl⟩

/-! ### The flag registers as numbers -/

/-- Fields side by side, as a number: the upper one past the bits of the lower one. -/
theorem toNat_append_eq_add {n m : Nat} (x : BitVec n) (y : BitVec m) :
    (x ++ y).toNat = x.toNat * 2 ^ m + y.toNat := by
  rw [BitVec.toNat_append, ← Nat.shiftLeft_add_eq_or_of_lt y.isLt, Nat.shiftLeft_eq]

theorem toNat_sysStatWord (r : SysRegs) :
    (sysStatWord r).toNat =
      r.phdFailsafe.toNat + 2 * r.pidBadmode.toNat + 4 * r.adcGlitch.toNat := by
  simp only [sysStatWord, toNat_append_eq_add, BitVec.toNat_ofBool, BitVec.toNat_ofNat]
  omega

theorem toNat_phdCtrlWord (s : State) : (phdCtrlWord s.phd).toNat = Claim.phdCtrlBits s := by
  have hstep := s.phd.step.isLt
  simp only [phdCtrlWord, Claim.phdCtrlBits, toNat_append_eq_add, BitVec.toNat_ofBool,
    BitVec.toNat_ofNat]
  omega

theorem toNat_lastHalfCode_none : (lastHalfCode none).toNat = 3 := rfl

theorem toNat_lastHalfCode_some (h : Half) : (lastHalfCode (some h)).toNat = h.val :=
  Nat.mod_eq_of_lt (h.isLt.trans (by decide))

theorem toNat_lastStepCode_none : (lastStepCode none).toNat = 7 := rfl

theorem toNat_lastStepCode_some (st : CommStep) : (lastStepCode (some st)).toNat = st.val :=
  Nat.mod_eq_of_lt (st.isLt.trans (by decide))

theorem toNat_fltCtrlWord (s : State) : (fltCtrlWord s.flt).toNat = Claim.fltCtrlBits s := by
  simp only [fltCtrlWord, Claim.fltCtrlBits, toNat_append_eq_add, BitVec.toNat_ofBool,
    BitVec.toNat_ofNat]
  cases s.flt.lastHalf <;> cases s.flt.lastStep <;>
    simp only [toNat_lastHalfCode_none, toNat_lastHalfCode_some, toNat_lastStepCode_none,
      toNat_lastStepCode_some] <;>
    omega

theorem toNat_schCtrlWord (s : State) : (schCtrlWord s.sch).toNat = Claim.schCtrlBits s := by
  simp only [schCtrlWord, Claim.schCtrlBits, toNat_append_eq_add, BitVec.toNat_ofBool,
    BitVec.toNat_ofNat]
  omega

/-! ### SYS.RDREG -/

/-- The mapped registers outside the settings bank, in the order of their indices (R21). -/
def namedRegs : List Reg :=
  [.sysCnt, .sysStat, .sysGlitchCnt, .phdCtrl, .phdDc, .phdGates, .phdPwmfreq, .fltCtrl, .fltLen,
    .fltSum, .fltPtr, .fltNavg, .fltScalar, .fltCurAcc, .fltBatAcc, .telDuty, .telSpeed,
    .telSetpoint, .telCurrentMa, .telBatteryMv, .telConsecDet, .telConsecMiss, .telErrAccum,
    .telLocked, .telLastSwap, .telLastZcd, .schCtrl, .schDeadline]

/-- The 55 mapped registers in the order of their indices (R21, R53). -/
def allRegs : List Reg := namedRegs ++ (List.finRange 27).map .set

theorem mem_allRegs (r : Reg) : r ∈ allRegs := by
  cases r with
  | set n => exact List.mem_append_right _ (List.mem_map_of_mem (List.mem_finRange n))
  | _ => exact List.mem_append_left _ (by decide)

/-- Searching the mapped registers for an index is the index map. -/
theorem find?_allRegs (a : BitVec 8) :
    allRegs.find? (fun r => a.toNat == r.index.toNat) = Reg.ofIndex a := by
  cases hfind : allRegs.find? (fun r => a.toNat == r.index.toNat) with
  | some r =>
    have hindex : a = r.index := BitVec.eq_of_toNat_eq (beq_iff_eq.1
      (List.find?_some (p := fun r : Reg => a.toNat == r.index.toNat) hfind))
    rw [hindex, ofIndex_index]
  | none =>
    refine (Option.eq_none_iff_forall_ne_some.2 fun r hr => ?_).symm
    refine List.find?_eq_none.1 hfind r (mem_allRegs r) ?_
    rw [index_of_ofIndex hr, beq_self_eq_true]

theorem toNat_index_set (n : Setting) : (Reg.set n).index.toNat = 0x80 + n.val := by
  have hn := n.isLt
  simp only [Reg.index, BitVec.toNat_ofNat]
  omega

/-- A register's index with the word it reads, as numbers. -/
def indexedWord (s : State) (r : Reg) : Nat × Nat := (r.index.toNat, (readReg s r).toNat)

/-- The settings bank, register by register (R53). -/
theorem map_indexedWord_settings (s : State) :
    ((List.finRange 27).map .set).map (indexedWord s) =
      (List.range 27).map fun n => (0x80 + n, ((s.settings[n]?).getD 0).toNat) := by
  rw [← List.map_coe_finRange_eq_range, List.map_map, List.map_map]
  refine List.map_congr_left fun n _ => Prod.ext (toNat_index_set n) ?_
  simp only [Function.comp_apply]
  rw [Vector.getElem?_eq_getElem n.isLt]
  rfl

/-- The words of `Claim.registerWords` are those the registers read as. -/
theorem registerWords_eq (s : State) : Claim.registerWords s = allRegs.map (indexedWord s) := by
  rw [allRegs, List.map_append, map_indexedWord_settings]
  refine congrArg (· ++ _) ?_
  simp only [namedRegs, List.map_cons, List.map_nil, indexedWord, readReg, toNat_sysStatWord,
    toNat_phdCtrlWord, toNat_fltCtrlWord, toNat_schCtrlWord, currentMa, batteryMv,
    BitVec.toNat_ushiftRight, Nat.shiftRight_eq_div_pow,
    BitVec.toNat_setWidth_of_le (show 16 ≤ 32 by decide),
    BitVec.toNat_setWidth_of_le (show 12 ≤ 32 by decide),
    BitVec.toNat_setWidth_of_le (show 1 ≤ 32 by decide), BitVec.toNat_ofBool]
  rfl

theorem lookup_map_indexedWord (s : State) (a : Nat) (l : List Reg) :
    (l.map (indexedWord s)).lookup a =
      (l.find? fun r => a == r.index.toNat).map fun r => (readReg s r).toNat := by
  induction l with
  | nil => rfl
  | cons r l ih =>
    rw [List.map_cons, indexedWord, List.lookup_cons, List.find?_cons, ih]
    cases a == r.index.toNat <;> rfl

theorem lookup_registerWords (s : State) (a : BitVec 8) :
    (Claim.registerWords s).lookup a.toNat = (readIndex s a).map BitVec.toNat := by
  rw [registerWords_eq, lookup_map_indexedWord, find?_allRegs, readIndex, Option.map_map]
  rfl

theorem execSysRdreg_mapped {s : State} {a : BitVec 8} {v : Word} (h : readIndex s a = some v) :
    exec (.sysRdreg a) s = .next (respond .ok v s) := by
  simp only [exec, execSysRdreg, h]

theorem execSysRdreg_unmapped {s : State} {a : BitVec 8} (h : readIndex s a = none) :
    exec (.sysRdreg a) s = .next (raiseError .badReg s) := by
  simp only [exec, execSysRdreg, h]

theorem toNat_encode_sysRdreg (a : BitVec 8) :
    (encode (.sysRdreg a)).toNat = 0x0100000000000000 + a.toNat * 2 ^ 48 :=
  (toNat_mkBeat 0 1 a 0).trans (by simp)

/-- Settles O20: the spec's list of words is the register map's, word by word. -/
theorem rdregResult : Obligations.RdregResult := by
  refine ⟨toNat_encode_sysRdreg, fun a s => ?_⟩
  rw [lookup_registerWords]
  cases h : readIndex s a with
  | none => exact execSysRdreg_unmapped h
  | some v =>
    rw [execSysRdreg_mapped h]
    simp only [Option.map_some, BitVec.ofNat_toNat, BitVec.setWidth_eq]
    rfl

/-! ### SYS.WRREG -/

/-- The part of the state SYS.WRREG can change: `FLT.SCALAR`, telemetry and settings. -/
theorem writeReg_eq {s t : State} {r : Reg} {v : Word} (h : writeReg s r v = some t) :
    t = { s with
      flt := { s.flt with scalar := t.flt.scalar }
      tel := t.tel
      settings := t.settings } := by
  cases r <;> cases h <;> rfl

/-- What the register at index `a` reads as once `v` is written: `TEL.DUTY` keeps 16 bits (R112). -/
def storedWord (a : BitVec 8) (v : Word) : Word :=
  if a = 0x30 then (v.setWidth 16).setWidth 32 else v

theorem storedWord_of_ne {a : BitVec 8} (h : a ≠ 0x30) (v : Word) : storedWord a v = v := if_neg h

theorem index_set_ne_telDuty (n : Setting) : (Reg.set n).index ≠ 0x30 := by
  revert n
  decide

/-- A write is read back in its register and nowhere else. -/
theorem readReg_writeReg {s t : State} {r : Reg} {v : Word} (h : writeReg s r v = some t)
    (x : Reg) : readReg t x = if x = r then storedWord r.index v else readReg s x := by
  cases r <;> cases h
  case set n =>
    rw [storedWord_of_ne (index_set_ne_telDuty n)]
    cases x with
    | set m =>
      simp only [readReg, Vector.get_eq_getElem, Vector.getElem_set, Reg.set.injEq, Fin.ext_iff,
        eq_comm]
    | _ => rfl
  all_goals cases x <;> rfl

theorem exists_writeReg_iff (s : State) (r : Reg) (v : Word) :
    (∃ t, writeReg s r v = some t) ↔ Claim.writable r.index.toNat := by
  cases r with
  | set n =>
    have hn := n.isLt
    rw [toNat_index_set]
    exact iff_of_true ⟨_, rfl⟩ (by unfold Claim.writable; omega)
  | _ => simp [writeReg, Claim.writable, Reg.index]

theorem not_writable_of_unmapped {a : BitVec 8} (h : Reg.ofIndex a = none) :
    ¬ Claim.writable a.toNat := by
  unfold Claim.writable
  revert h
  revert a
  decide

/-- SYS.WRREG writes at exactly the indices of R112's list. -/
theorem exists_writeIndex_iff (s : State) (a : BitVec 8) (v : Word) :
    (∃ t, writeIndex s a v = some t) ↔ Claim.writable a.toNat := by
  unfold writeIndex
  cases hr : Reg.ofIndex a with
  | none => exact iff_of_false (by simp) (not_writable_of_unmapped hr)
  | some r =>
    rw [Option.bind_some, ← index_of_ofIndex hr]
    exact exists_writeReg_iff s r v

section
variable {s t : State} {a : BitVec 8} {v : Word} (h : writeIndex s a v = some t)
include h

/-- A write by index is a write of the register mapped there. -/
theorem exists_writeReg_of_writeIndex : ∃ r, r.index = a ∧ writeReg s r v = some t := by
  obtain ⟨r, hr, hw⟩ := Option.bind_eq_some_iff.1 h
  exact ⟨r, index_of_ofIndex hr, hw⟩

theorem readIndex_writeIndex_same : readIndex t a = some (storedWord a v) := by
  obtain ⟨r, rfl, hw⟩ := exists_writeReg_of_writeIndex h
  rw [readIndex, ofIndex_index, Option.map_some, readReg_writeReg hw, if_pos rfl]

theorem keptBut_writeIndex : KeptBut [a.toNat] s t := by
  obtain ⟨r, rfl, hw⟩ := exists_writeReg_of_writeIndex h
  refine ⟨regsKept_of_readReg fun x hx => ?_, ?_, ?_, ?_⟩
  · rw [readReg_writeReg hw, if_neg]
    rintro rfl
    exact hx (List.mem_singleton.2 rfl)
  all_goals rw [writeReg_eq hw]
  · exact fun _ => rfl
  · exact fun _ => rfl
  · exact ⟨rfl, rfl, rfl⟩

theorem events_writeIndex : t.events = s.events := by
  obtain ⟨r, -, hw⟩ := exists_writeReg_of_writeIndex h
  rw [writeReg_eq hw]

theorem exec_sysWrreg_of_some : exec (.sysWrreg a v) s = .next (respondOk t) := by
  simp only [exec, execSysWrreg, h]

end

theorem exec_sysWrreg_of_none {s : State} {a : BitVec 8} {v : Word} (h : writeIndex s a v = none) :
    exec (.sysWrreg a v) s = .next (raiseError .badReg s) := by
  simp only [exec, execSysWrreg, h]

theorem toNat_encode_sysWrreg (a : BitVec 8) (v : Word) :
    (encode (.sysWrreg a v)).toNat = 0x0200000000000000 + a.toNat * 2 ^ 48 + v.toNat :=
  (toNat_mkBeat 0 2 a v).trans (by simp)

/-- Settles O21: a write succeeds at exactly the writable indices, and is read back at its own
alone. -/
theorem wrregResult : Obligations.WrregResult := by
  refine ⟨toNat_encode_sysWrreg, fun a v s => ?_⟩
  have hwritable := exists_writeIndex_iff s a v
  cases h : writeIndex s a v with
  | none =>
    have hno : ¬ Claim.writable a.toNat := by simpa [h] using hwritable
    exact ⟨_, exec_sysWrreg_of_none h, rfl, fun hw => absurd hw hno,
      fun _ => ⟨rfl, (KeptBut.refl [] s).respond _ _⟩⟩
  | some t =>
    have hyes : Claim.writable a.toNat := hwritable.1 ⟨t, h⟩
    exact ⟨_, exec_sysWrreg_of_some h, (respondOk_events t).trans (events_writeIndex h),
      fun _ => ⟨rfl, (keptBut_writeIndex h).respond _ _,
        (readIndex_respond _ _ t a).trans (readIndex_writeIndex_same h)⟩,
      fun hno => absurd hyes hno⟩

/-! ### SYS.TELZERO -/

/-- The indices of the telemetry group (R54). -/
def telemetryGroup : List Nat :=
  [0x26, 0x27, 0x30, 0x31, 0x32, 0x33, 0x34, 0x35, 0x36, 0x37, 0x38, 0x39, 0x3A, 0x40, 0x41]

theorem index_set_notMem_telemetryGroup (n : Setting) :
    (Reg.set n).index.toNat ∉ telemetryGroup := by
  revert n
  decide

theorem mapped_of_mem_telemetryGroup {a : BitVec 8} (h : a.toNat ∈ telemetryGroup) :
    ∃ r, Reg.ofIndex a = some r := by
  rw [← Option.isSome_iff_exists]
  revert h
  revert a
  decide

/-- The registers of the telemetry group read 0, the two views among them; the others as before. -/
theorem readReg_telZero (s : State) (r : Reg) :
    readReg (telZero s) r = if r.index.toNat ∈ telemetryGroup then 0 else readReg s r := by
  cases r with
  | set n => rw [if_neg (index_set_notMem_telemetryGroup n)]; rfl
  | telCurrentMa | telBatteryMv => exact BitVec.zero_ushiftRight
  | schCtrl => exact (by decide : schCtrlWord State.reset.sch = 0)
  | _ => rfl

theorem readIndex_telZero {a : BitVec 8} (ha : a.toNat ∈ telemetryGroup) (s : State) :
    readIndex (telZero s) a = some 0 := by
  obtain ⟨r, hr⟩ := mapped_of_mem_telemetryGroup ha
  rw [← index_of_ofIndex hr] at ha
  rw [readIndex, hr, Option.map_some, readReg_telZero, if_pos ha]

theorem keptBut_telZero (s : State) : KeptBut telemetryGroup s (telZero s) :=
  ⟨regsKept_of_readReg fun r hr => by rw [readReg_telZero, if_neg hr], fun _ => rfl, fun _ => rfl,
    rfl, rfl, rfl⟩

theorem mem_telemetryGroup {a : BitVec 8} (ha : (0x30 ≤ a.toNat ∧ a.toNat ≤ 0x3A) ∨ a = 0x26 ∨
    a = 0x27 ∨ a = 0x40 ∨ a = 0x41) : a.toNat ∈ telemetryGroup := by
  revert ha
  revert a
  decide

/-- Settles O22: the beat is SYS.TELZERO's encoding; the group reads 0 and every other register as
before by `readReg_telZero`. -/
theorem telzeroResult : Obligations.TelzeroResult :=
  ⟨decodeEncodeRoundTrip .sysTelzero rfl, fun s =>
    ⟨respondOk (telZero s), rfl, rfl, rfl, fun _ ha => readIndex_telZero (mem_telemetryGroup ha) s,
      (keptBut_telZero s).respond .ok 0⟩⟩

end Sys2Proof.Machine
end

section
/-! Proofs for `41_pid_control_law.md`: PID.STEP case by case (R120 to R131), and the
postcondition of an update (R132), which follows from the cases. -/

namespace Sys2Proof.Machine

open Sys2Proof

/-! ### The spec's tests and the model's flags -/

theorem overCurrent_eq_true_iff (s : State) : overCurrent s = true ↔ Claim.overLimit s :=
  decide_eq_true_iff

theorem overCurrent_eq_false_iff (s : State) : overCurrent s = false ↔ ¬ Claim.overLimit s :=
  decide_eq_false_iff_not

theorem lockGate_eq_true_iff (s : State) : lockGate s = true ↔ 12 ≤ s.tel.consecDet.toNat :=
  decide_eq_true_iff

theorem lockGate_eq_false_iff (s : State) : lockGate s = false ↔ s.tel.consecDet.toNat < 12 :=
  decide_eq_false_iff_not.trans Nat.not_le

theorem exec_pidStep (s : State) :
    exec .pidStep s = .next (respondOk (pidStep Config.impl s)) := rfl

/-! ### Frames one after another -/

theorem KeptBut.mono {l l' : List Nat} {s t : State} (h : KeptBut l s t) (hl : l ⊆ l') :
    KeptBut l' s t := by
  obtain ⟨hregs, hrest⟩ := h
  exact ⟨fun a ha => hregs a fun hmem => ha (hl hmem), hrest⟩

theorem KeptBut.trans {l : List Nat} {s t u : State} (h : KeptBut l s t) (k : KeptBut l t u) :
    KeptBut l s u := by
  obtain ⟨hregs, hwin, hadc, hscript, hdraws, hepoch⟩ := h
  obtain ⟨kregs, kwin, kadc, kscript, kdraws, kepoch⟩ := k
  exact ⟨fun a ha => (kregs a ha).trans (hregs a ha), fun n => (kwin n).trans (hwin n),
    fun n => (kadc n).trans (hadc n), kscript.trans hscript, kdraws.trans hdraws,
    kepoch.trans hepoch⟩

/-- `TEL.DUTY` is kept where its register reads as before. -/
theorem KeptBut.telDuty {l : List Nat} {s t : State} (h : KeptBut l s t) (hl : 0x30 ∉ l) :
    t.tel.duty = s.tel.duty := by
  obtain ⟨hregs, -⟩ := h
  have hread : some (t.tel.duty.setWidth 32) = some (s.tel.duty.setWidth 32) :=
    hregs 0x30 hl
  have hvalue := congrArg BitVec.toNat (Option.some.inj hread)
  rw [BitVec.toNat_setWidth_of_le (by decide), BitVec.toNat_setWidth_of_le (by decide)] at hvalue
  exact BitVec.eq_of_toNat_eq hvalue

/-! ### The lock gate (R123) -/

theorem keptBut_withLock (l : Bool) (s : State) : KeptBut [0x38] s (withLock l s) := by
  refine ⟨regsKept_of_readReg fun r hr => ?_, fun _ => rfl, fun _ => rfl, rfl, rfl, rfl⟩
  cases r with
  | telLocked => exact absurd (by decide) hr
  | _ => rfl

/-- A frame from past the lock gate is one from before it where `TEL.LOCKED` is excepted. -/
theorem KeptBut.of_withLock {l : List Nat} {b : Bool} {s t : State}
    (h : KeptBut l (withLock b s) t) (hl : 0x38 ∈ l) : KeptBut l s t :=
  ((keptBut_withLock b s).mono (by simpa using hl)).trans h

/-! ### Writing and forwarding the duty (R126, R131) -/

theorem dutyForwarded_setTelDuty (x : Int) (s : State) :
    Claim.DutyForwarded (forward (setTelDuty Config.impl x s)) (Claim.dutyClamp s x) :=
  ⟨setTelDuty_toNat Config.impl x s, rfl, rfl⟩

/-- The response port is not among what `forward()` writes. -/
theorem dutyForwarded_respondOk {t : State} {d : Int} (h : Claim.DutyForwarded t d) :
    Claim.DutyForwarded (respondOk t) d := h

theorem keptBut_forward_setTelDuty (c : Config) (x : Int) (s : State) :
    KeptBut [0x11, 0x12, 0x30] s (forward (setTelDuty c x s)) := by
  refine ⟨regsKept_of_readReg fun r hr => ?_, fun _ => rfl, fun _ => rfl, rfl, rfl, rfl⟩
  cases r with
  | phdDc | phdGates | telDuty => exact absurd (by decide) hr
  | _ => rfl

/-! ### Closed mode before the duty is written (R125, R127, R129) -/

/-- The state of `closed_mode()` past integration and braking, from which the output is computed. -/
def beforeSlew (s : State) : State := brake (pidError s) (integrate (pidError s) s)

theorem closedMode_eq_slewTo (c : Config) (s : State) :
    closedMode c s = slewTo c (pidOutput c (pidError s) (beforeSlew s)) (beforeSlew s) := rfl

/-- Integration and braking write the accumulator, the drive mode and the gates only. -/
theorem beforeSlew_eq (s : State) : ∃ acc mode gates,
    beforeSlew s =
      { s with
        tel := { s.tel with errAccum := acc }
        phd := { s.phd with mode := mode, gates := gates } } := by
  rw [beforeSlew, brake_eq, integrate_eq]
  exact ⟨_, _, _, rfl⟩

theorem keptBut_beforeSlew (s : State) : KeptBut [0x10, 0x12, 0x37] s (beforeSlew s) := by
  obtain ⟨acc, mode, gates, h⟩ := beforeSlew_eq s
  rw [h]
  refine ⟨regsKept_of_readReg fun r hr => ?_, fun _ => rfl, fun _ => rfl, rfl, rfl, rfl⟩
  cases r with
  | phdCtrl | phdGates | telErrAccum => exact absurd (by decide) hr
  | _ => rfl

theorem pidError_eq_closedError (s : State) : pidError s = Claim.closedError s := rfl

theorem setting_integrate (e : Int) (s : State) (n : Setting) :
    setting (integrate e s) n = setting s n := by
  rw [integrate_eq]
  rfl

theorem integrate_phd (e : Int) (s : State) : (integrate e s).phd = s.phd := by rw [integrate_eq]

theorem brake_tel (e : Int) (s : State) : (brake e s).tel = s.tel := by rw [brake_eq]

/-- The accumulator is R127's, whether or not `SET.Ki` lets it integrate. -/
theorem beforeSlew_errAccum (s : State) :
    (beforeSlew s).tel.errAccum.toInt = Claim.integrated s := by
  rw [beforeSlew, brake_tel, Claim.integrated]
  by_cases hgain : 0 < setting s setKi
  · rw [if_pos hgain]
    exact integrate_errAccum hgain
  · rw [if_neg hgain, integrate, if_neg hgain]

/-- The drive mode is that of R129's hysteresis. -/
theorem beforeSlew_mode (s : State) :
    (beforeSlew s).phd.mode =
      if setting s setBraking = 1 ∧ Claim.closedError s < -setting s setBrakeOnErr then
        .lowOnPwmBoth
      else if setting s setBraking = 1 ∧ Claim.closedError s > -setting s setBrakeOffErr then
        .lowOnPwmHigh
      else s.phd.mode := by
  rw [beforeSlew, brake_mode, integrate_phd, pidError_eq_closedError]
  simp only [setting_integrate]
  by_cases hbraking : setting s setBraking = 1
  · simp only [hbraking, if_true, true_and]
  · simp only [hbraking, if_false, false_and]

/-! ### The closed-mode duty (R125, R128) -/

/-- The slew-limited step of the duty toward the output in duty counts. -/
def slewStep (s : State) : Int :=
  let mdc := max (setting s setMaxDcChange) 0
  let target := Int.tdiv (Claim.closedOutput s * Config.impl.dcOne) Config.impl.pidScale
  max (-mdc) (min (target - s.tel.duty.toNat) mdc)

theorem abs_slewStep_le (s : State) : |slewStep s| ≤ max (setting s setMaxDcChange) 0 := by
  have hmdc : 0 ≤ max (setting s setMaxDcChange) 0 := le_max_right _ _
  exact abs_le.2 ⟨le_max_left _ _, max_le (by omega) (min_le_right _ _)⟩

theorem pidOutput_beforeSlew (s : State) :
    pidOutput Config.impl (pidError s) (beforeSlew s) = Claim.closedOutput s := by
  have hacc := beforeSlew_errAccum s
  obtain ⟨acc, mode, gates, h⟩ := beforeSlew_eq s
  rw [h] at hacc ⊢
  rw [Claim.closedOutput, ← hacc]
  rfl

theorem closedMode_eq_setTelDuty (s : State) :
    closedMode Config.impl s =
      setTelDuty Config.impl (s.tel.duty.toNat + slewStep s) (beforeSlew s) := by
  rw [closedMode_eq_slewTo, pidOutput_beforeSlew]
  obtain ⟨acc, mode, gates, h⟩ := beforeSlew_eq s
  rw [h]
  rfl

/-- What closed mode leaves, duty forwarded (R125, R131). -/
theorem forward_closedMode_result (s : State) :
    let t := forward (closedMode Config.impl s)
    Claim.DutyForwarded t (Claim.dutyClamp s (s.tel.duty.toNat + slewStep s)) ∧
      t.tel.locked = s.tel.locked ∧ t.phd.armed = s.phd.armed ∧ t.phd.step = s.phd.step ∧
      t.events = s.events ∧ t.tel.errAccum = (beforeSlew s).tel.errAccum ∧
      t.phd.mode = (beforeSlew s).phd.mode ∧
      KeptBut [0x10, 0x11, 0x12, 0x30, 0x37] s t := by
  have hduty := dutyForwarded_setTelDuty (s.tel.duty.toNat + slewStep s) (beforeSlew s)
  have hforward := keptBut_forward_setTelDuty Config.impl (s.tel.duty.toNat + slewStep s)
    (beforeSlew s)
  have hkept := ((keptBut_beforeSlew s).mono (l' := [0x10, 0x11, 0x12, 0x30, 0x37])
    (by decide)).trans (hforward.mono (by decide))
  rw [closedMode_eq_setTelDuty]
  obtain ⟨acc, mode, gates, h⟩ := beforeSlew_eq s
  rw [h] at hduty hkept ⊢
  exact ⟨hduty, rfl, rfl, rfl, rfl, rfl, rfl, hkept⟩

/-! ### An unrecognised mode (R130) -/

theorem keptBut_badMode (s : State) : KeptBut [0x01] s (badMode s) := by
  refine ⟨regsKept_of_readReg fun r hr => ?_, fun _ => rfl, fun _ => rfl, rfl, rfl, rfl⟩
  cases r with
  | sysStat => exact absurd (by decide) hr
  | _ => rfl

/-! ### `TEL.LOCKED` past the gate (R123) -/

theorem controlMode_locked (s : State) :
    (controlMode Config.impl s).tel.locked = s.tel.locked := by
  by_cases hopen : setting s setMode = 0
  · rw [controlMode_open hopen]
    rfl
  by_cases hclosed : setting s setMode = 1
  · rw [controlMode_closed hclosed]
    obtain ⟨-, hlocked, -⟩ := forward_closedMode_result s
    exact hlocked
  · rw [controlMode_unrecognised hopen hclosed]
    rfl

/-- Past current limiting `TEL.LOCKED` is the gate. -/
theorem locked_pidStep {s : State} (hover : overCurrent s = false) :
    (pidStep Config.impl s).tel.locked = lockGate s := by
  cases hlock : lockGate s with
  | false => rw [pidStep_unlocked hover hlock]; rfl
  | true => rw [pidStep_locked hover hlock, controlMode_locked]; rfl

/-! ### The five cases -/

/-- Settles O32: case 1 writes the clamped, reduced duty and forwards it. -/
theorem pidCurrentLimiting : Obligations.PidCurrentLimiting := fun s hover => by
  refine ⟨_, exec_pidStep s, rfl, ?_⟩
  rw [pidStep_limited ((overCurrent_eq_true_iff s).2 hover)]
  exact ⟨dutyForwarded_respondOk (dutyForwarded_setTelDuty _ s), rfl,
    (keptBut_forward_setTelDuty Config.impl _ s).respond .ok 0⟩

/-- Settles O33: `TEL.LOCKED` is the gate by `locked_pidStep`; behind a false gate it is all that is
written. -/
theorem pidLockGate : Obligations.PidLockGate := fun s hlimit => by
  have hover := (overCurrent_eq_false_iff s).2 hlimit
  refine ⟨_, exec_pidStep s, rfl, ?_, fun hdet => ?_⟩
  · rw [respondOk_tel, locked_pidStep hover]
    exact lockGate_eq_true_iff s
  · rw [pidStep_unlocked hover ((lockGate_eq_false_iff s).2 hdet)]
    exact ⟨rfl, (keptBut_withLock false s).respond .ok 0⟩

/-- Past current limiting and the gate, PID.STEP is the selected mode's. -/
theorem exec_pidStep_passed {s : State} (hlimit : ¬ Claim.overLimit s)
    (hdet : 12 ≤ s.tel.consecDet.toNat) :
    exec .pidStep s = .next (respondOk (controlMode Config.impl (withLock true s))) := by
  rw [exec_pidStep, pidStep_locked ((overCurrent_eq_false_iff s).2 hlimit)
    ((lockGate_eq_true_iff s).2 hdet)]

/-- Settles O34: case 3 is the duty write at the setpoint, from the state past the lock gate. -/
theorem pidOpenMode : Obligations.PidOpenMode := fun s hlimit hdet hmode => by
  refine ⟨_, exec_pidStep_passed hlimit hdet, rfl, ?_⟩
  rw [controlMode_open (s := withLock true s) hmode]
  exact ⟨rfl, dutyForwarded_respondOk (dutyForwarded_setTelDuty _ (withLock true s)), rfl,
    (((keptBut_forward_setTelDuty Config.impl _ _).mono (by decide)).of_withLock
      (by decide)).respond .ok 0⟩

/-- Settles O35: case 4 is `closed_mode()` from the state past the lock gate; no formula of the law
reads `TEL.LOCKED`. -/
theorem pidClosedMode : Obligations.PidClosedMode := fun s hlimit hdet hmode => by
  obtain ⟨hduty, hlocked, harmed, hstep, hevents, hacc, hdrive, hkept⟩ :=
    forward_closedMode_result (withLock true s)
  refine ⟨_, exec_pidStep_passed hlimit hdet, rfl, ?_⟩
  rw [controlMode_closed (s := withLock true s) hmode, respondOk_tel, respondOk_phd,
    respondOk_events]
  exact ⟨hlocked, (congrArg BitVec.toInt hacc).trans (beforeSlew_errAccum (withLock true s)),
    dutyForwarded_respondOk hduty, harmed, hstep,
    hdrive.trans (beforeSlew_mode (withLock true s)), hevents,
    ((hkept.mono (by decide)).of_withLock (by decide)).respond .ok 0⟩

/-- Settles O36: case 5 sets the bit and emits, from the state past the lock gate. -/
theorem pidUnrecognisedMode : Obligations.PidUnrecognisedMode :=
  fun s hlimit hdet hopen hclosed => by
    refine ⟨_, exec_pidStep_passed hlimit hdet, rfl, ?_⟩
    rw [controlMode_unrecognised (s := withLock true s) hopen hclosed]
    exact ⟨rfl, rfl, rfl, rfl, rfl,
      (((keptBut_badMode _).mono (by decide)).of_withLock (by decide)).respond .ok 0⟩

/-! ### The postcondition (R132) -/

/-- The bounds of the duty clamp: the maximum, with 0 where it is negative, and the minimum where it
is one. -/
theorem dutyClamp_bounds (s : State) (x : Int) :
    let lo := setting s setMinDc
    let hi := min (setting s setMaxDc) (Config.impl.hwMaxDc : Int)
    (0 ≤ hi → Claim.dutyClamp s x ≤ hi) ∧ (hi < 0 → Claim.dutyClamp s x = 0) ∧
      (0 ≤ lo ∧ lo ≤ hi → lo ≤ Claim.dutyClamp s x) := by
  unfold Claim.dutyClamp
  omega

/-- From a duty within its bounds the clamp moves no further than the unclamped step. -/
theorem abs_dutyClamp_sub_le {s : State} {old d : Int} (hold : 0 ≤ old)
    (hlo : setting s setMinDc ≤ old)
    (hhi : old ≤ min (setting s setMaxDc) (Config.impl.hwMaxDc : Int)) :
    |Claim.dutyClamp s (old + d) - old| ≤ |d| := by
  have hle := le_abs_self d
  have hge := neg_abs_le d
  rw [abs_le, Claim.dutyClamp]
  omega

section
variable {s t : State} (h : exec .pidStep s = .next t)
include h

/-- The step has one result. -/
theorem eq_of_exec_pidStep {u : State} (hu : exec .pidStep s = .next u) : u = t :=
  Host.Outcome.next.inj (hu.symm.trans h)

/-- Cases 1, 3 and 4 write and forward a clamped duty. -/
theorem exists_dutyForwarded (hupdates : Claim.overLimit s ∨
    (¬ Claim.overLimit s ∧ 12 ≤ s.tel.consecDet.toNat) ∧
      (setting s setMode = 0 ∨ setting s setMode = 1)) :
    ∃ x, Claim.DutyForwarded t (Claim.dutyClamp s x) := by
  rcases hupdates with hover | ⟨⟨hlimit, hdet⟩, hopen | hclosed⟩
  · obtain ⟨u, hu, -, hduty, -⟩ := pidCurrentLimiting s hover
    exact ⟨_, eq_of_exec_pidStep h hu ▸ hduty⟩
  · obtain ⟨u, hu, -, -, hduty, -⟩ := pidOpenMode s hlimit hdet hopen
    exact ⟨_, eq_of_exec_pidStep h hu ▸ hduty⟩
  · obtain ⟨u, hu, -, -, -, hduty, -⟩ := pidClosedMode s hlimit hdet hclosed
    exact ⟨_, eq_of_exec_pidStep h hu ▸ hduty⟩

theorem telDuty_of_closed (hlimit : ¬ Claim.overLimit s) (hdet : 12 ≤ s.tel.consecDet.toNat)
    (hclosed : setting s setMode = 1) :
    (t.tel.duty.toNat : Int) = Claim.dutyClamp s (s.tel.duty.toNat + slewStep s) := by
  obtain ⟨u, hu, -, -, -, ⟨hduty, -⟩, -⟩ := pidClosedMode s hlimit hdet hclosed
  exact eq_of_exec_pidStep h hu ▸ hduty

/-- Cases 2 and 5 leave the duty. -/
theorem telDuty_kept (hstop : (¬ Claim.overLimit s ∧ s.tel.consecDet.toNat < 12) ∨
    (¬ Claim.overLimit s ∧ 12 ≤ s.tel.consecDet.toNat) ∧
      setting s setMode ≠ 0 ∧ setting s setMode ≠ 1) :
    t.tel.duty = s.tel.duty := by
  rcases hstop with ⟨hlimit, hdet⟩ | ⟨⟨hlimit, hdet⟩, hopen, hclosed⟩
  · obtain ⟨u, hu, -, -, hkept⟩ := pidLockGate s hlimit
    exact eq_of_exec_pidStep h hu ▸ (hkept hdet).2.telDuty (by decide)
  · obtain ⟨u, hu, -, -, -, -, -, -, hkept⟩ := pidUnrecognisedMode s hlimit hdet hopen hclosed
    exact eq_of_exec_pidStep h hu ▸ hkept.telDuty (by decide)

end

/-- Settles O37, from what O32 to O36 say of the five cases: the duty written is a clamped one, in
closed mode the clamp of a step of `mdc` at most. -/
theorem pidPostcondition : Obligations.PidPostcondition := by
  intro s t h
  refine ⟨fun hupdates => ?_, fun ⟨⟨hlimit, hdet⟩, hclosed, hlo, hhi⟩ => ?_, telDuty_kept h⟩
  · obtain ⟨x, hduty, hdriver, -⟩ := exists_dutyForwarded h hupdates
    obtain ⟨hmax, hneg, hmin⟩ := dutyClamp_bounds s x
    rw [hduty]
    exact ⟨hmax, hneg, hmin, hdriver⟩
  · rw [telDuty_of_closed h hlimit hdet hclosed]
    exact (abs_dutyClamp_sub_le (Int.natCast_nonneg _) hlo hhi).trans (abs_slewStep_le s)

end Sys2Proof.Machine
end

section
/-! Proofs for `42_bemf_filter.md`: what one frame does to the filter (R144, R147 to R151), what a
batch of frames does (R140, R141, R145, R150, R153), and FLT.SAMPLE by a beat and by FLTSVC (R140,
R142). -/

namespace Sys2Proof.Machine

open Sys2Proof

/-! ### The blanking window (R143) -/

theorem blanked_eq_true_iff (c : Config) (s : State) :
    blanked c s = true ↔ (s.sys.cnt - s.tel.lastSwap).toNat < c.demagBlankingUs :=
  decide_eq_true_iff

theorem blanked_eq_false_iff (c : Config) (s : State) :
    blanked c s = false ↔ c.demagBlankingUs ≤ (s.sys.cnt - s.tel.lastSwap).toNat :=
  decide_eq_false_iff_not.trans Nat.not_lt

theorem fltSample_of_blanked {c : Config} {s : State} (hb : blanked c s = true) (h : Half) :
    fltSample c h s = repeatCheck h s := by
  simp only [fltSample, blanked_repeatCheck, hb, if_true]

theorem fltSample_of_unblanked {c : Config} {s : State} (hb : blanked c s = false) (h : Half) :
    fltSample c h s = sampleBatch c h (repeatCheck h s) := by
  simp only [fltSample, blanked_repeatCheck, hb, Bool.false_eq_true, if_false]

/-! ### The repeat-pointer check (R141) -/

/-- Everything the repeat-pointer check writes: the glitch bit and its counter, the repeat pointer,
the batch flags. -/
theorem repeatCheck_eq (h : Half) (s : State) :
    repeatCheck h s =
      { s with
        sys :=
          { s.sys with
            adcGlitch := s.sys.adcGlitch || decide (s.flt.lastHalf = some h)
            glitchCnt := (repeatCheck h s).sys.glitchCnt }
        flt :=
          { s.flt with
            lastHalf := some h
            hf := false
            ff := if h = 1 then false else s.flt.ff } } := by
  by_cases hrep : s.flt.lastHalf = some h
  · simp only [repeatCheck, repeated, hrep, decide_true, if_true, Bool.or_true]
  · simp only [repeatCheck, repeated, hrep, decide_false, Bool.false_eq_true, if_false,
      Bool.or_false]

/-- The glitch counter counts repeated halves and saturates (R26, R141). -/
theorem repeatCheck_glitchCnt (h : Half) (s : State) :
    (repeatCheck h s).sys.glitchCnt.toNat =
      if s.flt.lastHalf = some h then min (s.sys.glitchCnt.toNat + 1) (2 ^ 32 - 1)
      else s.sys.glitchCnt.toNat := by
  by_cases hrep : s.flt.lastHalf = some h
  · simp only [repeatCheck, repeated, hrep, decide_true, if_true, BitVec.toNat_ofNat]
    omega
  · simp only [repeatCheck, repeated, hrep, decide_false, Bool.false_eq_true, if_false]

/-- Settles O39: within the window the sample is the repeat-pointer check. -/
theorem blankedBatchDropped : Obligations.BlankedBatchDropped := fun c h s hblank => by
  simp only [fltSample_of_blanked ((blanked_eq_true_iff c s).2 hblank) h]
  exact ⟨repeatCheck_eq h s, repeatCheck_glitchCnt h s⟩

/-! ### The smoothers (R144, R151) -/

/-- No wrap: the smoother loses more at the top of its register than `CURCAL` can add. -/
theorem currentIir_curAcc {c : Config} {i : Nat} (hi : i < 2 ^ c.adcW) (s : State) :
    (currentIir c i s).flt.curAcc.toNat =
      s.flt.curAcc.toNat - s.flt.curAcc.toNat / 128 + c.curcal i := by
  have hacc := s.flt.curAcc.isLt
  have hin := c.curcal_range i hi
  simp only [currentIir, curShift, BitVec.toNat_ofNat, Nat.shiftRight_eq_div_pow]
  omega

/-- No wrap, as for the current smoother. -/
theorem battery_batAcc (c : Config) (st : CommStep) (va vb vc : Nat) (s : State) :
    (battery c st va vb vc s).flt.batAcc.toNat =
      if s.tel.duty.toNat > c.battDcMin then
        s.flt.batAcc.toNat - s.flt.batAcc.toNat / 16384 +
          c.battEst (phaseSample (highPhase st) va vb vc) s.tel.duty.toNat
      else s.flt.batAcc.toNat := by
  by_cases hduty : c.battDcMin < s.tel.duty.toNat
  · have hacc := s.flt.batAcc.isLt
    have hin := c.battEst_range (phaseSample (highPhase st) va vb vc) s.tel.duty.toNat (by omega)
    simp only [battery, hduty, if_true, batShift, BitVec.toNat_ofNat, Nat.shiftRight_eq_div_pow]
    omega
  · simp only [battery, hduty, if_false]

/-- The boxcar and the crossing test leave both smoothers alone. -/
theorem frameCore_accs (c : Config) (d : Int) (s : State) :
    (frameCore c d s).flt.curAcc = s.flt.curAcc ∧ (frameCore c d s).flt.batAcc = s.flt.batAcc := by
  unfold frameCore
  split
  · exact ⟨rfl, rfl⟩
  · rcases zeroCross_cases c (boxcar d s) with ⟨_, e⟩ | ⟨_, e⟩ <;> rw [e] <;> exact ⟨rfl, rfl⟩

theorem frameCore_duty (c : Config) (d : Int) (s : State) :
    (frameCore c d s).tel.duty = s.tel.duty := by
  rw [(frameCore_frame c d s).tel]

theorem filterFrame_curAcc (c : Config) (st : CommStep) (va vb vc i : Nat) (s : State) :
    (filterFrame c st va vb vc i s).flt.curAcc = (currentIir c i s).flt.curAcc := by
  rw [filterFrame_eq, battery_eq]
  exact (frameCore_accs c _ _).1

/-- Settles O43: each smoother is written by one part of the frame alone. -/
theorem frameSmoothers : Obligations.FrameSmoothers := by
  intro c st va vb vc i s hi
  refine ⟨(congrArg BitVec.toNat (filterFrame_curAcc c st va vb vc i s)).trans
    (currentIir_curAcc hi s), ?_⟩
  obtain ⟨-, hbat⟩ := frameCore_accs c (phaseDiff c s st va vb vc) (currentIir c i s)
  rw [filterFrame_eq, battery_batAcc, frameCore_duty, hbat]
  generalize highPhase st = p
  cases p <;> rfl

/-! ### A frame before detection (R147 to R149) -/

/-- The state of a frame past the current smoother and the boxcar. -/
def afterBoxcar (c : Config) (st : CommStep) (va vb vc i : Nat) (s : State) : State :=
  boxcar (phaseDiff c s st va vb vc) (currentIir c i s)

theorem phaseDiff_eq_normalisedDiff (c : Config) (s : State) (st : CommStep) (va vb vc : Nat) :
    phaseDiff c s st va vb vc = Claim.normalisedDiff c s st va vb vc := by
  unfold phaseDiff Claim.normalisedDiff
  generalize floatPhase st = p
  cases p <;> rfl

theorem windowFull_eq_true_iff (s : State) :
    windowFull s = true ↔ s.flt.len.toNat ≤ s.flt.navg.toNat :=
  decide_eq_true_iff

/-- A full window loses the entry at the pointer, then the new one is added (R148). -/
theorem boxcar_sum_word (d : Int) (s : State) :
    (boxcar d s).flt.sum =
      u32 (s.flt.sum.toInt -
        (if s.flt.len.toNat ≤ s.flt.navg.toNat then winAt s s.flt.ptr.toNat else 0) + d) := by
  by_cases hfull : s.flt.len.toNat ≤ s.flt.navg.toNat
  · simp only [boxcar, (windowFull_eq_true_iff s).2 hfull, hfull, if_true, s32]
  · simp only [boxcar, mt (windowFull_eq_true_iff s).1 hfull, Bool.false_eq_true, hfull, if_false,
      s32, sub_zero]

section
variable (c : Config) (st : CommStep) (va vb vc i : Nat) (s : State)

theorem winAt_afterBoxcar (k : Nat) :
    winAt (afterBoxcar c st va vb vc i s) k =
      if k = s.flt.ptr.toNat then Claim.normalisedDiff c s st va vb vc else winAt s k := by
  rw [← phaseDiff_eq_normalisedDiff]
  exact winAt_boxcar _ (currentIir c i s) k

theorem afterBoxcar_sum :
    (afterBoxcar c st va vb vc i s).flt.sum = Claim.boxcarSum c s st va vb vc := by
  rw [Claim.boxcarSum, ← phaseDiff_eq_normalisedDiff]
  exact boxcar_sum_word _ (currentIir c i s)

theorem afterBoxcar_navg :
    (afterBoxcar c st va vb vc i s).flt.navg.toNat = min (s.flt.navg.toNat + 1) 65535 :=
  boxcar_navg _ (currentIir c i s)

theorem windowFull_afterBoxcar_iff :
    windowFull (afterBoxcar c st va vb vc i s) = true ↔
      s.flt.len.toNat ≤ min (s.flt.navg.toNat + 1) 65535 := by
  rw [windowFull_eq_true_iff, afterBoxcar_navg]
  rfl

end

theorem sumBelow_eq_true_iff (s : State) :
    sumBelow s = true ↔ windowFull s = true ∧ s.flt.sum.toInt < 0 := by
  rw [sumBelow, Bool.and_eq_true, decide_eq_true_iff, s32]

/-- A sum that `FLT.BELOW` has just been set by is negative, so it does not cross: the crossing
needs the flag from before (R149). -/
theorem crossed_noteBelow_iff (c : Config) (s : State) :
    crossed c (noteBelow s) = true ↔
      windowFull s = true ∧ (s.flt.below = true ∨ c.zcEdge = false) ∧ s.flt.sum.toInt > 0 := by
  have hunfold : crossed c (noteBelow s) = (windowFull s &&
      ((s.flt.below || sumBelow s) || !c.zcEdge) && decide (0 < s.flt.sum.toInt)) := rfl
  have hbelow := sumBelow_eq_true_iff s
  rw [hunfold]
  simp only [Bool.and_eq_true, Bool.or_eq_true, Bool.not_eq_true', decide_eq_true_iff]
  constructor
  · rintro ⟨⟨hfull, (hflag | hneg) | hedge⟩, hpos⟩
    · exact ⟨hfull, .inl hflag, hpos⟩
    · exact absurd (hbelow.1 hneg).2 (not_lt_of_gt hpos)
    · exact ⟨hfull, .inr hedge, hpos⟩
  · rintro ⟨hfull, hflag | hedge, hpos⟩
    · exact ⟨⟨hfull, .inl (.inl hflag)⟩, hpos⟩
    · exact ⟨⟨hfull, .inr hedge⟩, hpos⟩

/-- Everything a frame before detection can do past its boxcar: note `FLT.BELOW`, smooth the battery
voltage, and either report the crossing or not. -/
theorem filterFrame_cases_of_undetected (c : Config) (st : CommStep) (va vb vc i : Nat) {s : State}
    (hdet : s.flt.det = false) : ∃ bat,
    (crossed c (noteBelow (afterBoxcar c st va vb vc i s)) = true ∧
      filterFrame c st va vb vc i s =
        let b := afterBoxcar c st va vb vc i s
        { b with
          flt := { b.flt with below := s.flt.below || sumBelow b, det := true, batAcc := bat }
          tel := { s.tel with lastZcd := s.sys.cnt }
          events := s.events ++ [(.zcd, s.sys.cnt)] }) ∨
      (crossed c (noteBelow (afterBoxcar c st va vb vc i s)) = false ∧
        filterFrame c st va vb vc i s =
          let b := afterBoxcar c st va vb vc i s
          { b with
            flt := { b.flt with below := s.flt.below || sumBelow b, batAcc := bat } }) := by
  have hcore : frameCore c (phaseDiff c s st va vb vc) (currentIir c i s) =
      zeroCross c (afterBoxcar c st va vb vc i s) := if_neg (by simp [currentIir, hdet])
  rw [filterFrame_eq, hcore, battery_eq]
  refine ⟨(battery c st va vb vc (zeroCross c (afterBoxcar c st va vb vc i s))).flt.batAcc, ?_⟩
  rcases zeroCross_cases c (afterBoxcar c st va vb vc i s) with ⟨hcross, e⟩ | ⟨hcross, e⟩
  · exact .inl ⟨hcross, by rw [e]; rfl⟩
  · exact .inr ⟨hcross, by rw [e]; rfl⟩

/-- Settles O44: past the boxcar a frame touches neither the window nor its bookkeeping. -/
theorem frameBoxcar : Obligations.FrameBoxcar := by
  intro c st va vb vc i s hdet
  have hwin := winAt_afterBoxcar c st va vb vc i s
  have hsum := afterBoxcar_sum c st va vb vc i s
  have hnavg := afterBoxcar_navg c st va vb vc i s
  obtain ⟨bat, ⟨-, e⟩ | ⟨-, e⟩⟩ := filterFrame_cases_of_undetected c st va vb vc i hdet <;>
    rw [e] <;> exact ⟨hwin, hsum, rfl, hnavg, rfl⟩

/-- Settles O45: the flags are tested on the state past the boxcar, whose sum is
`afterBoxcar_sum`'s. -/
theorem frameZeroCross : Obligations.FrameZeroCross := by
  intro c st va vb vc i s hdet
  have hcross := crossed_noteBelow_iff c (afterBoxcar c st va vb vc i s)
  have hbelow := sumBelow_eq_true_iff (afterBoxcar c st va vb vc i s)
  rw [afterBoxcar_sum, windowFull_afterBoxcar_iff] at hcross hbelow
  have hflag : (s.flt.below || sumBelow (afterBoxcar c st va vb vc i s)) = true ↔ _ :=
    (Bool.or_eq_true _ _).to_iff.trans (or_congr_right hbelow)
  obtain ⟨bat, ⟨hyes, e⟩ | ⟨hno, e⟩⟩ := filterFrame_cases_of_undetected c st va vb vc i hdet <;>
    rw [e]
  · exact ⟨hflag, fun _ => ⟨rfl, rfl, rfl⟩, fun hn => absurd (hcross.1 hyes) hn⟩
  · exact ⟨hflag, fun hc => absurd (hcross.2 hc) (by simp [hno]), fun _ => ⟨hdet, rfl, rfl⟩⟩

/-! ### A frame after detection (R150) -/

/-- Nothing but the two smoothers changes. -/
def SmoothersOnly (s t : State) : Prop :=
  ∃ cur bat, t = { s with flt := { s.flt with curAcc := cur, batAcc := bat } }

theorem SmoothersOnly.refl (s : State) : SmoothersOnly s s := ⟨_, _, rfl⟩

theorem SmoothersOnly.trans {s t u : State} (h : SmoothersOnly s t) (k : SmoothersOnly t u) :
    SmoothersOnly s u := by
  obtain ⟨cur, bat, rfl⟩ := h
  obtain ⟨cur', bat', rfl⟩ := k
  exact ⟨cur', bat', rfl⟩

theorem SmoothersOnly.det {s t : State} (h : SmoothersOnly s t) : t.flt.det = s.flt.det := by
  obtain ⟨cur, bat, rfl⟩ := h
  rfl

theorem filterFrame_of_detected (c : Config) (st : CommStep) (va vb vc i : Nat) {s : State}
    (hdet : s.flt.det = true) : SmoothersOnly s (filterFrame c st va vb vc i s) := by
  have hcore (d : Int) : frameCore c d (currentIir c i s) = currentIir c i s := if_pos hdet
  rw [filterFrame_eq, hcore, battery_eq]
  exact ⟨_, _, rfl⟩

/-! ### Any frame -/

/-- The filter registers that no frame writes. -/
structure BatchKept (s t : State) : Prop where
  lastHalf : t.flt.lastHalf = s.flt.lastHalf
  lastStep : t.flt.lastStep = s.flt.lastStep
  hf : t.flt.hf = s.flt.hf
  ff : t.flt.ff = s.flt.ff
  len : t.flt.len = s.flt.len

theorem BatchKept.refl (s : State) : BatchKept s s := ⟨rfl, rfl, rfl, rfl, rfl⟩

theorem BatchKept.trans {s t u : State} (h : BatchKept s t) (k : BatchKept t u) : BatchKept s u :=
  ⟨k.lastHalf.trans h.lastHalf, k.lastStep.trans h.lastStep, k.hf.trans h.hf, k.ff.trans h.ff,
    k.len.trans h.len⟩

/-- No event and no telemetry, or one ZCD with its latch, which leaves `FLT.DET` set (R149). -/
def ZcdOnce (s t : State) : Prop :=
  (t.events = s.events ∧ t.tel = s.tel) ∨
    (t.events = s.events ++ [(.zcd, s.sys.cnt)] ∧ t.flt.det = true ∧
      t.tel = { s.tel with lastZcd := s.sys.cnt })

/-- It reads of the state before no more than the event port, the telemetry and the counter. -/
theorem ZcdOnce.of_same {s s' t : State} (h : ZcdOnce s' t) (hevents : s'.events = s.events)
    (htel : s'.tel = s.tel) (hcnt : s'.sys.cnt = s.sys.cnt) : ZcdOnce s t := by
  rw [ZcdOnce, hevents, htel, hcnt] at h
  exact h

/-- What frames can emit, in a form that composes: a crossing sets `FLT.DET`, and with it set only
the smoothers run on. -/
structure FramesEmit (s t : State) : Prop where
  cnt : t.sys.cnt = s.sys.cnt
  once : ZcdOnce s t
  dropped : s.flt.det = true → SmoothersOnly s t

theorem FramesEmit.refl (s : State) : FramesEmit s s :=
  ⟨rfl, .inl ⟨rfl, rfl⟩, fun _ => .refl s⟩

theorem FramesEmit.trans {s t u : State} (h : FramesEmit s t) (k : FramesEmit t u) :
    FramesEmit s u := by
  refine ⟨k.cnt.trans h.cnt, ?_, fun hs =>
    (h.dropped hs).trans (k.dropped ((h.dropped hs).det.trans hs))⟩
  rcases h.once with ⟨hevents, htel⟩ | ⟨hevents, hdet, htel⟩
  · exact k.once.of_same hevents htel h.cnt
  · obtain ⟨cur, bat, rfl⟩ := k.dropped hdet
    exact .inr ⟨hevents, hdet, htel⟩

section
variable (c : Config) (st : CommStep) (va vb vc i : Nat) (s : State)

theorem filterFrame_batchKept : BatchKept s (filterFrame c st va vb vc i s) := by
  cases hdet : s.flt.det with
  | true =>
    obtain ⟨cur, bat, e⟩ := filterFrame_of_detected c st va vb vc i hdet
    rw [e]
    exact ⟨rfl, rfl, rfl, rfl, rfl⟩
  | false =>
    obtain ⟨bat, ⟨-, e⟩ | ⟨-, e⟩⟩ := filterFrame_cases_of_undetected c st va vb vc i hdet <;>
      rw [e] <;> exact ⟨rfl, rfl, rfl, rfl, rfl⟩

theorem filterFrame_zcdOnce : ZcdOnce s (filterFrame c st va vb vc i s) := by
  cases hdet : s.flt.det with
  | true =>
    obtain ⟨cur, bat, e⟩ := filterFrame_of_detected c st va vb vc i hdet
    rw [e]
    exact .inl ⟨rfl, rfl⟩
  | false =>
    obtain ⟨bat, ⟨-, e⟩ | ⟨-, e⟩⟩ := filterFrame_cases_of_undetected c st va vb vc i hdet <;> rw [e]
    · exact .inr ⟨rfl, rfl, rfl⟩
    · exact .inl ⟨rfl, rfl⟩

theorem filterFrame_emits : FramesEmit s (filterFrame c st va vb vc i s) :=
  ⟨(filterFrame_frame c st va vb vc i s).cnt, filterFrame_zcdOnce c st va vb vc i s,
    filterFrame_of_detected c st va vb vc i⟩

end

/-! ### A batch (R140, R145) -/

/-- The state in which a batch's frames start: a new commutation step empties the filter. -/
def enterStep (c : Config) (s : State) : State :=
  if s.flt.lastStep = some s.phd.step then s else stepChange c s.phd.step s

theorem enterStep_cases (c : Config) (s : State) :
    (s.flt.lastStep = some s.phd.step ∧ enterStep c s = s) ∨
      (s.flt.lastStep ≠ some s.phd.step ∧ enterStep c s = stepChange c s.phd.step s) := by
  by_cases hstep : s.flt.lastStep = some s.phd.step
  · exact .inl ⟨hstep, if_pos hstep⟩
  · exact .inr ⟨hstep, if_neg hstep⟩

theorem sampleBatch_eq (c : Config) (h : Half) (s : State) :
    sampleBatch c h s =
      (List.range c.nf).foldl (sampleFrame c h s.phd.step) (enterStep c s) := by
  by_cases hstep : s.flt.lastStep = some s.phd.step
  · simp only [sampleBatch, enterStep, stepChanged, hstep, ne_eq, not_true_eq_false, decide_false,
      Bool.false_eq_true, if_false, if_true]
  · simp only [sampleBatch, enterStep, stepChanged, hstep, ne_eq, not_false_eq_true, decide_true,
      if_false, if_true]

theorem enterStep_frame (c : Config) (s : State) : FilterFrame s (enterStep c s) := by
  rcases enterStep_cases c s with ⟨_, e⟩ | ⟨_, e⟩ <;> rw [e]
  · exact .refl s
  · exact stepChange_frame c _ s

theorem enterStep_emits_nothing (c : Config) (s : State) :
    (enterStep c s).events = s.events ∧ (enterStep c s).tel = s.tel := by
  rcases enterStep_cases c s with ⟨_, e⟩ | ⟨_, e⟩ <;> rw [e] <;> exact ⟨rfl, rfl⟩

theorem sampleBatch_batchKept (c : Config) (h : Half) (s : State) :
    BatchKept (enterStep c s) (sampleBatch c h s) := by
  rw [sampleBatch_eq]
  exact foldl_sampleFrame_induction BatchKept .refl (fun _ _ _ => .trans)
    (fun s f => filterFrame_batchKept c _ _ _ _ _ s) _ _

theorem sampleBatch_emits (c : Config) (h : Half) (s : State) :
    FramesEmit (enterStep c s) (sampleBatch c h s) := by
  rw [sampleBatch_eq]
  exact foldl_sampleFrame_induction FramesEmit .refl (fun _ _ _ => .trans)
    (fun s f => filterFrame_emits c _ _ _ _ _ s) _ _

/-- R146's formula, with the spec's division for the shift. -/
theorem windowLength_eq_div (c : Config) (speed scalar : Nat) :
    windowLength c speed scalar =
      max 1 (min (c.fltTable (min (speed / 128) (c.nb - 1)) * scalar / 100)
        c.maxRunningFilter) := by
  rw [windowLength_eq, bucketOf, Nat.shiftRight_eq_div_pow]
  rfl

theorem enterStep_lastStep (c : Config) (s : State) :
    (enterStep c s).flt.lastStep = some s.phd.step := by
  rcases enterStep_cases c s with ⟨hstep, e⟩ | ⟨_, e⟩ <;> rw [e]
  · exact hstep
  · rfl

theorem enterStep_len (c : Config) (s : State) :
    (enterStep c s).flt.len.toNat =
      if s.flt.lastStep = some s.phd.step then s.flt.len.toNat
      else windowLength c s.tel.speed.toNat s.flt.scalar.toNat := by
  rcases enterStep_cases c s with ⟨hstep, e⟩ | ⟨hstep, e⟩ <;> rw [e]
  · rw [if_pos hstep]
  · rw [if_neg hstep, stepChange_len]

/-- Settles O40: the frames keep what entering the step sets. -/
theorem stepChangeSetsWindow : Obligations.StepChangeSetsWindow := by
  intro c h s hpast
  have hkept := sampleBatch_batchKept c h (repeatCheck h s)
  rw [fltSample_of_unblanked ((blanked_eq_false_iff c s).2 hpast), ← windowLength_eq_div]
  exact ⟨hkept.lastStep.trans (enterStep_lastStep c _),
    (congrArg BitVec.toNat hkept.len).trans (enterStep_len c _)⟩

theorem FilterFrame.adcRead {s t : State} (h : FilterFrame s t) (c : Config) (half : Half)
    (f ch : Nat) : adcRead c t half f ch = adcRead c s half f ch := by
  simp only [Machine.adcRead, adcAt, h.adcbuf, h.adcEpoch]

/-- A frame of half `h` with the samples `s` holds, processed from another state. -/
def frameWithSamplesOf (c : Config) (h : Half) (st : CommStep) (s u : State) (f : Nat) : State :=
  filterFrame c st (adcRead c s h f 0) (adcRead c s h f 1) (adcRead c s h f 2) (adcRead c s h f 3) u

theorem sampleFrame_eq_frameWithSamplesOf (c : Config) (h : Half) (st : CommStep) {s u : State}
    (hframe : FilterFrame s u) (f : Nat) :
    sampleFrame c h st u f = frameWithSamplesOf c h st s u f := by
  simp only [sampleFrame, frameWithSamplesOf, hframe.adcRead]

/-- No frame writes ADCBUF, so each frame's samples may be read before the first. -/
theorem foldl_sampleFrame_eq (c : Config) (h : Half) (st : CommStep) {s u : State}
    (hframe : FilterFrame s u) (l : List Nat) :
    l.foldl (sampleFrame c h st) u = l.foldl (frameWithSamplesOf c h st s) u := by
  induction l generalizing u with
  | nil => rw [List.foldl_nil, List.foldl_nil]
  | cons f l ih =>
    have hnext : FilterFrame s (frameWithSamplesOf c h st s u f) :=
      hframe.trans (filterFrame_frame c st _ _ _ _ u)
    rw [List.foldl_cons, List.foldl_cons, sampleFrame_eq_frameWithSamplesOf c h st hframe]
    exact ih hnext

/-- Settles O41: the batch is a fold over its frames, whose samples no frame changes. -/
theorem batchFramesInOrder : Obligations.BatchFramesInOrder := by
  intro c h s hpast
  have hframe := (repeatCheck_frame h s).trans (enterStep_frame c (repeatCheck h s))
  rw [fltSample_of_unblanked ((blanked_eq_false_iff c s).2 hpast), sampleBatch_eq,
    foldl_sampleFrame_eq c h _ hframe]
  simp only [← windowLength_eq_div]
  rfl

/-! ### FLT.SAMPLE whole -/

/-- A sample's repeat pointer and batch flags are those of the repeat-pointer check. -/
theorem fltSample_served (c : Config) (h : Half) (s : State) :
    (fltSample c h s).flt.lastHalf = some h ∧ (fltSample c h s).flt.hf = false ∧
      (fltSample c h s).flt.ff = if h = 1 then false else s.flt.ff := by
  cases hb : blanked c s with
  | true =>
    rw [fltSample_of_blanked hb]
    exact ⟨rfl, rfl, rfl⟩
  | false =>
    have hkept := sampleBatch_batchKept c h (repeatCheck h s)
    rw [fltSample_of_unblanked hb, hkept.lastHalf, hkept.hf, hkept.ff]
    rcases enterStep_cases c (repeatCheck h s) with ⟨_, e⟩ | ⟨_, e⟩ <;> rw [e] <;>
      exact ⟨rfl, rfl, rfl⟩

theorem fltSample_of_detected (c : Config) (h : Half) {s : State} (hdet : s.flt.det = true)
    (hstep : s.flt.lastStep = some s.phd.step) :
    SmoothersOnly (repeatCheck h s) (fltSample c h s) := by
  cases hb : blanked c s with
  | true =>
    rw [fltSample_of_blanked hb]
    exact .refl _
  | false =>
    have hemits := sampleBatch_emits c h (repeatCheck h s)
    have hstart : enterStep c (repeatCheck h s) = repeatCheck h s := if_pos hstep
    rw [hstart] at hemits
    rw [fltSample_of_unblanked hb]
    exact hemits.dropped hdet

/-- Settles O46: with the step unchanged the detected flag stands, so only the smoothers run. -/
theorem detectedStepDropped : Obligations.DetectedStepDropped := by
  intro c h s hdet hstep
  obtain ⟨cur, bat, e⟩ := fltSample_of_detected c h hdet hstep
  rw [e]
  exact ⟨hdet, rfl, rfl, rfl, rfl, rfl, rfl, rfl, fun _ => rfl⟩

/-- Settles O47, by induction over the frames of the batch (`FramesEmit.trans`). -/
theorem oneZcdPerSample : Obligations.OneZcdPerSample := by
  intro c h s
  change ZcdOnce s (fltSample c h s)
  cases hb : blanked c s with
  | true =>
    rw [fltSample_of_blanked hb]
    exact .inl ⟨rfl, rfl⟩
  | false =>
    have hemits := sampleBatch_emits c h (repeatCheck h s)
    rw [fltSample_of_unblanked hb]
    obtain ⟨hevents, htel⟩ := enterStep_emits_nothing c (repeatCheck h s)
    exact hemits.once.of_same hevents htel
      ((repeatCheck_frame h s).trans (enterStep_frame c (repeatCheck h s))).cnt

/-! ### By a beat and by FLTSVC (R140, R142) -/

theorem toNat_encode_fltSample (a : BitVec 8) :
    (encode (.fltSample a)).toNat = 0x2000000000000000 + a.toNat * 2 ^ 48 :=
  (toNat_mkBeat 2 0 a 0).trans (by simp)

theorem halfOperand_of_le {a : BitVec 8} (ha : a.toNat ≤ 1) :
    halfOperand a = some (if a = 0 then 0 else 1) := by
  rcases Nat.le_one_iff_eq_zero_or_eq_one.1 ha with h | h
  · obtain rfl : a = 0 := BitVec.eq_of_toNat_eq h
    rfl
  · obtain rfl : a = 1 := BitVec.eq_of_toNat_eq h
    rfl

theorem halfOperand_of_not_le {a : BitVec 8} (ha : ¬ a.toNat ≤ 1) : halfOperand a = none :=
  dif_neg (by omega)

theorem exec_fltSample_of_some {a : BitVec 8} {h : Half} (ha : halfOperand a = some h) (s : State) :
    exec (.fltSample a) s = .next (respondOk (fltSample Config.impl h s)) := by
  simp only [exec, execFltSample, ha]

theorem exec_fltSample_of_none {a : BitVec 8} (ha : halfOperand a = none) (s : State) :
    exec (.fltSample a) s = .next (raiseError .illegal s) := by
  simp only [exec, execFltSample, ha]

/-- The answer put back, an answered state is the state before the answer. -/
theorem respondOk_restored {t : State} {r : Option Response} (h : t.response = r) :
    { respondOk t with response := r } = t := by
  subst h
  rfl

/-- Settles O38: the frame is `fltSample_frame`'s. -/
theorem fltSampleCompletes : Obligations.FltSampleCompletes := by
  refine ⟨toNat_encode_fltSample, fun a s => ?_⟩
  by_cases ha : a.toNat ≤ 1
  · have hframe := fltSample_frame Config.impl (if a = 0 then 0 else 1) s
    refine ⟨_, exec_fltSample_of_some (halfOperand_of_le ha) s, ?_⟩
    rw [if_pos ha]
    exact ⟨rfl, respondOk_restored hframe.response, hframe.phdFailsafe, hframe.pidBadmode,
      hframe.regsKept, hframe.adcKept, hframe.scriptKept⟩
  · refine ⟨_, exec_fltSample_of_none (halfOperand_of_not_le ha) s, ?_⟩
    rw [if_neg ha]
    rfl

/-- Settles O48: the three cases of a FLTSVC step; half 1 clears both flags, half 0 is served only
where the full flag is clear. -/
theorem fltsvcServesFullFirst : Obligations.FltsvcServesFullFirst := by
  intro s
  have hframe := fltsvc_frame Config.impl s
  refine ⟨fltsvc Config.impl s, rfl, hframe.response, fun hff => ?full, fun hff hhf => ?halfFull,
    fun hff hhf => ?idle, hframe.phdFailsafe, hframe.pidBadmode, hframe.regsKept, hframe.adcKept,
    hframe.scriptKept⟩
  case full =>
    have e : fltsvc Config.impl s = fltSample Config.impl 1 s := by simp [fltsvc, hff]
    rw [e]
    exact ⟨rfl, fltSample_served Config.impl 1 s⟩
  case halfFull =>
    have e : fltsvc Config.impl s = fltSample Config.impl 0 s := by simp [fltsvc, hff, hhf]
    obtain ⟨hhalf, hhf', hff'⟩ := fltSample_served Config.impl 0 s
    rw [e]
    exact ⟨rfl, hhalf, hhf', hff'.trans hff⟩
  case idle => simp [fltsvc, hff, hhf]

end Sys2Proof.Machine
end

section
/-! Proofs for `43_scheduler.md`: what SCH.SCHEDULE, SCH.INJECT and SCH.FIRE answer and change
(R170, R171, R176), and what CLOCK, SCHSVC and TMO do to the slot (R173 to R175). -/

namespace Sys2Proof.Machine

open Sys2Proof

/-! ### Event codes (R246) -/

/-- Field A up to 9 is the code of the event it names. -/
theorem exists_eventOperand {a : BitVec 8} (ha : a.toNat ≤ 9) :
    ∃ e, eventOperand a = some e ∧ (eventCode e).toNat = a.toNat := by
  unfold eventOperand
  split
  case h_11 => simp only [imp_false] at *; omega
  all_goals next hcode => exact ⟨_, rfl, hcode.symm⟩

theorem eventOperand_of_not_le {a : BitVec 8} (ha : ¬ a.toNat ≤ 9) : eventOperand a = none := by
  unfold eventOperand
  split
  case h_11 => rfl
  all_goals omega

/-! ### Frames -/

/-- The slot's flags and event are seen in `SCH_CTRL` alone, register 0x40 (R51). -/
theorem keptBut_of_deadline_kept (s : State) {r : SchRegs} (h : r.deadline = s.sch.deadline) :
    KeptBut [0x40] s { s with sch := r } := by
  refine ⟨regsKept_of_readReg fun i hi => ?_, fun _ => rfl, fun _ => rfl, rfl, rfl, rfl⟩
  cases i with
  | schCtrl => exact absurd (by decide) hi
  | schDeadline => exact h
  | _ => rfl

theorem keptBut_schedule (e : Event) (d : Word) (s : State) :
    KeptBut [0x40, 0x41] s (schedule e d s) := by
  refine ⟨regsKept_of_readReg fun i hi => ?_, fun _ => rfl, fun _ => rfl, rfl, rfl, rfl⟩
  cases i with
  | schCtrl | schDeadline => exact absurd (by decide) hi
  | _ => rfl

/-- The event port is no register and no memory (R22, R241). -/
theorem KeptBut.emit {l : List Nat} {s t : State} (h : KeptBut l s t) (e : Event) :
    KeptBut l s (emit e t) := by
  obtain ⟨hregs, hwin, hadc, hscript⟩ := h
  exact ⟨hregs, hwin, hadc, hscript⟩

theorem keptBut_tick (s : State) : KeptBut [0x00, 0x40] s (tick s) := by
  refine ⟨regsKept_of_readReg fun i hi => ?_, fun _ => rfl, fun _ => rfl, rfl, rfl, rfl⟩
  cases i with
  | sysCnt | schCtrl => exact absurd (by decide) hi
  | _ => rfl

/-! ### SCH.SCHEDULE (R170) -/

theorem toNat_encode_schSchedule (a : BitVec 8) (d : Word) :
    (encode (.schSchedule a d)).toNat = 0x3000000000000000 + a.toNat * 2 ^ 48 + d.toNat :=
  (toNat_mkBeat 3 0 a d).trans (by simp)

theorem exec_schSchedule_of_some {a : BitVec 8} {e : Event} (ha : eventOperand a = some e)
    (d : Word) (s : State) : exec (.schSchedule a d) s = .next (respondOk (schedule e d s)) := by
  simp only [exec, execSchSchedule, ha]

theorem exec_schSchedule_of_none {a : BitVec 8} (ha : eventOperand a = none) (d : Word)
    (s : State) : exec (.schSchedule a d) s = .next (raiseError .illegal s) := by
  simp only [exec, execSchSchedule, ha]

/-- Settles O50: a code up to 9 names an event and the whole slot is written for it; a code above 9
names none. -/
theorem scheduleResult : Obligations.ScheduleResult := by
  refine ⟨toNat_encode_schSchedule, fun a d s => ?_⟩
  by_cases ha : a.toNat ≤ 9
  · obtain ⟨e, hop, hcode⟩ := exists_eventOperand ha
    refine ⟨_, exec_schSchedule_of_some hop d s, ?_⟩
    rw [if_pos ha]
    exact ⟨rfl, hcode, rfl, BitVec.toNat_add _ _, rfl, rfl, (keptBut_schedule e d s).respond .ok 0⟩
  · refine ⟨_, exec_schSchedule_of_none (eventOperand_of_not_le ha) d s, ?_⟩
    rw [if_neg ha]
    rfl

/-! ### SCH.INJECT (R171) -/

theorem toNat_encode_schInject (a : BitVec 8) :
    (encode (.schInject a)).toNat = 0x3100000000000000 + a.toNat * 2 ^ 48 :=
  (toNat_mkBeat 3 1 a 0).trans (by simp)

theorem exec_schInject_of_some {a : BitVec 8} {e : Event} (ha : eventOperand a = some e)
    (s : State) : exec (.schInject a) s = .next (respondOk (emit e s)) := by
  simp only [exec, execSchInject, ha]

theorem exec_schInject_of_none {a : BitVec 8} (ha : eventOperand a = none) (s : State) :
    exec (.schInject a) s = .next (raiseError .illegal s) := by
  simp only [exec, execSchInject, ha]

/-- Settles O51: a code up to 9 names the event emitted; a code above 9 names none. -/
theorem injectResult : Obligations.InjectResult := by
  refine ⟨toNat_encode_schInject, fun a s => ?_⟩
  by_cases ha : a.toNat ≤ 9
  · obtain ⟨e, hop, hcode⟩ := exists_eventOperand ha
    refine ⟨_, exec_schInject_of_some hop s, ?_⟩
    rw [if_pos ha]
    exact ⟨rfl, ((KeptBut.refl [] s).emit e).respond .ok 0, e, hcode, rfl⟩
  · refine ⟨_, exec_schInject_of_none (eventOperand_of_not_le ha) s, ?_⟩
    rw [if_neg ha]
    rfl

/-! ### SCH.FIRE (R176) -/

theorem keptBut_schFire (s : State) : KeptBut [0x40] s (schFire s) := by
  unfold schFire
  split
  · exact (keptBut_of_deadline_kept s (r := { s.sch with armed := false }) rfl).emit s.sch.event
  · exact .refl _ s

theorem schFire_fired (s : State) : Claim.Fired s (schFire s) := by
  have hkept := keptBut_schFire s
  rcases schFire_cases s with ⟨harmed, e⟩ | ⟨harmed, e⟩ <;> rw [e] at hkept ⊢
  · exact ⟨rfl, rfl, rfl, by rw [if_pos harmed], hkept⟩
  · exact ⟨harmed, rfl, rfl, by simp [harmed], hkept⟩

theorem schFire_cmpIf (s : State) : (schFire s).sch.cmpIf = s.sch.cmpIf := by
  rcases schFire_cases s with ⟨_, e⟩ | ⟨_, e⟩ <;> rw [e]

theorem schFire_response (s : State) : (schFire s).response = s.response := by
  rcases schFire_cases s with ⟨_, e⟩ | ⟨_, e⟩ <;> rw [e]

theorem fired_respondOk {s t : State} (h : Claim.Fired s t) : Claim.Fired s (respondOk t) := by
  obtain ⟨harmed, hevent, hdeadline, hevents, hkept⟩ := h
  exact ⟨harmed, hevent, hdeadline, hevents, hkept.respond .ok 0⟩

/-- Settles O52: the beat is SCH.FIRE's encoding, and the operation answers past `schFire`. -/
theorem fireResult : Obligations.FireResult :=
  ⟨decodeEncodeRoundTrip .schFire rfl, fun s =>
    ⟨respondOk (schFire s), rfl, rfl, schFire_cmpIf s, fired_respondOk (schFire_fired s)⟩⟩

/-! ### SCHSVC and TMO (R174, R175) -/

/-- Clearing the pending bit before firing shows in `SCH_CTRL` alone, which firing excepts. -/
theorem fired_of_cmpIf_cleared {s t : State}
    (h : Claim.Fired { s with sch := { s.sch with cmpIf := false } } t) : Claim.Fired s t := by
  obtain ⟨harmed, hevent, hdeadline, hevents, hkept⟩ := h
  exact ⟨harmed, hevent, hdeadline, hevents,
    (keptBut_of_deadline_kept s (r := { s.sch with cmpIf := false }) rfl).trans hkept⟩

theorem schsvc_of_pending {s : State} (h : s.sch.cmpIf = true) :
    schsvc s = schFire { s with sch := { s.sch with cmpIf := false } } :=
  if_pos h

/-- Everything a SCHSVC step can do: with the match pending clear it and fire, else nothing. -/
theorem schsvc_cases (s : State) :
    (s.sch.cmpIf = true ∧
        schsvc s = schFire { s with sch := { s.sch with cmpIf := false } }) ∨
      (s.sch.cmpIf = false ∧ schsvc s = s) := by
  cases h : s.sch.cmpIf with
  | true => exact .inl ⟨rfl, schsvc_of_pending h⟩
  | false => exact .inr ⟨rfl, if_neg (by simp [schsvcEnabled, h])⟩

/-- Settles O53: both agents perform `schFire`, SCHSVC past the clearing of the pending bit. -/
theorem serviceAgentsFire : Obligations.ServiceAgentsFire := by
  refine ⟨fun s hpending => ⟨schsvc s, rfl, ?_⟩,
    fun s => ⟨tmo s, rfl, schFire_cmpIf s, schFire_response s, schFire_fired s⟩⟩
  rw [schsvc_of_pending hpending]
  exact ⟨schFire_cmpIf _, schFire_response _, fired_of_cmpIf_cleared (schFire_fired _)⟩

/-! ### CLOCK (R173) -/

/-- The pending bit is set where the advanced counter meets the deadline, and never cleared. -/
theorem tick_cmpIf_iff (s : State) :
    (tick s).sch.cmpIf = true ↔ s.sch.cmpIf = true ∨ s.sys.cnt + 1 = s.sch.deadline := by
  simp [tick, compareStep, compareMatch]

/-- Settles O54: the counter, then the compare against it (`tick_cmpIf_iff`). -/
theorem tickResult : Obligations.TickResult := fun s =>
  ⟨tick s, rfl, BitVec.toNat_add _ _, tick_cmpIf_iff s, rfl, rfl, rfl, rfl, keptBut_tick s⟩

end Sys2Proof.Machine
end

section
/-! Proofs for `43_scheduler.md` R177 and R178: who changes the slot, the way of a scheduled event
to the event port, and the CLOCK step at which its match comes (`70_reset_and_hazards.md` R274). -/

namespace Sys2Proof.Machine

open Sys2Proof

/-! ### Moves that leave the slot -/

/-- The slot holds what it held; the pending bit is left open. -/
structure SlotHeld (s t : State) : Prop where
  armed : t.sch.armed = s.sch.armed
  event : t.sch.event = s.sch.event
  deadline : t.sch.deadline = s.sch.deadline

theorem SlotHeld.refl (s : State) : SlotHeld s s := ⟨rfl, rfl, rfl⟩

theorem SlotHeld.trans {s t u : State} (h : SlotHeld s t) (k : SlotHeld t u) : SlotHeld s u :=
  ⟨k.armed.trans h.armed, k.event.trans h.event, k.deadline.trans h.deadline⟩

theorem SlotHeld.of_sch {s t : State} (h : t.sch = s.sch) : SlotHeld s t :=
  ⟨congrArg SchRegs.armed h, congrArg SchRegs.event h, congrArg SchRegs.deadline h⟩

theorem tick_slotHeld (s : State) : SlotHeld s (tick s) := ⟨rfl, rfl, rfl⟩

theorem adcFill_sch (c : Config) (h : Half) (frames : List Frame) (s : State) :
    (adcFill c h frames s).sch = s.sch := by
  rw [adcFill_eq]

theorem forward_slewTo_sch (c : Config) (out : Int) (s : State) :
    (forward (slewTo c out s)).sch = s.sch := rfl

theorem forward_closedMode_sch (c : Config) (s : State) :
    (forward (closedMode c s)).sch = s.sch := by
  obtain ⟨acc, mode, gates, e⟩ := beforeSlew_eq s
  rw [closedMode_eq_slewTo, forward_slewTo_sch, e]

theorem controlMode_sch (c : Config) (s : State) : (controlMode c s).sch = s.sch := by
  by_cases hopen : setting s setMode = 0
  · rw [controlMode_open hopen]
    rfl
  by_cases hclosed : setting s setMode = 1
  · rw [controlMode_closed hclosed]
    exact forward_closedMode_sch c s
  · rw [controlMode_unrecognised hopen hclosed]
    rfl

theorem pidStep_sch (c : Config) (s : State) : (pidStep c s).sch = s.sch := by
  cases hover : overCurrent s with
  | true =>
    rw [pidStep_limited hover]
    rfl
  | false =>
    cases hlock : lockGate s with
    | false =>
      rw [pidStep_unlocked hover hlock]
      rfl
    | true =>
      rw [pidStep_locked hover hlock]
      exact controlMode_sch c (withLock true s)

theorem writeReg_sch {s t : State} {r : Reg} {v : Word} (h : writeReg s r v = some t) :
    t.sch = s.sch := by
  cases r <;> cases h <;> rfl

theorem writeIndex_sch {s t : State} {a : BitVec 8} {v : Word} (h : writeIndex s a v = some t) :
    t.sch = s.sch := by
  obtain ⟨r, _, hr⟩ := Option.bind_eq_some_iff.1 h
  exact writeReg_sch hr

/-- SYS.TELZERO, SCH.SCHEDULE and SCH.FIRE alone write the slot (R113, R170, R176). -/
theorem exec_sch {i : Instr} {s t : State} (h : exec i s = .next t) (hzero : i ≠ .sysTelzero)
    (hschedule : ∀ a d, i ≠ .schSchedule a d) (hfire : i ≠ .schFire) : t.sch = s.sch := by
  cases i <;> cases h
  case sysTelzero => exact absurd rfl hzero
  case schSchedule a d => exact absurd rfl (hschedule a d)
  case schFire => exact absurd rfl hfire
  case pidStep => exact pidStep_sch _ s
  case sysWrreg a v =>
    split
    next ht => exact (respondOk_sch _).trans (writeIndex_sch ht)
    next => rfl
  case fltSample a =>
    split
    next half _ => exact (fltSample_frame _ half s).sch
    next => rfl
  case sysNop | phdOff | phdArm | phdNext => rfl
  case sysRdreg | schInject | phdInit | phdSetmode | phdSetduty | phdSetstate => split <;> rfl

/-! ### What a move can do to the slot (R177, R178) -/

/-- A beat of SYS.TELZERO or of SCH.SCHEDULE. -/
def WritesSlot (w : Beat) : Prop :=
  decode w = .ok .sysTelzero ∨ ∃ a d, decode w = .ok (.schSchedule a d)

/-- What a move can do to the slot: hold it, fire it, or write it over. -/
inductive SlotEffect : Move → State → State → Prop
  | held {m : Move} {s t : State} (h : SlotHeld s t) : SlotEffect m s t
  | fired {m : Move} {s t : State} (h : Claim.Fired s t) : SlotEffect m s t
  | reset (s t : State) : SlotEffect .reset s t
  | written {w : Beat} (s t : State) (hw : WritesSlot w) : SlotEffect (.beat w) s t

theorem exec_slotEffect {w : Beat} {i : Instr} {s t : State} (hw : decode w = .ok i)
    (h : exec i s = .next t) : SlotEffect (.beat w) s t := by
  cases i with
  | sysTelzero => exact .written s t (.inl hw)
  | schSchedule a d => exact .written s t (.inr ⟨a, d, hw⟩)
  | schFire => cases h; exact .fired (fired_respondOk (schFire_fired s))
  | _ => exact .held (.of_sch (exec_sch h nofun (fun _ _ => nofun) nofun))

theorem perform_slotEffect {m : Move} {s t : State} (h : perform m s = .next t) :
    SlotEffect m s t := by
  cases m with
  | beat w =>
    cases hw : decode w with
    | ok i =>
      rw [perform_beat_of_decode hw] at h
      exact exec_slotEffect hw h
    | error e =>
      rw [perform_beat_of_illegal hw] at h
      cases h
      exact .held (.of_sch rfl)
  | tick => cases h; exact .held (tick_slotHeld s)
  | adc half frames => cases h; exact .held (.of_sch (adcFill_sch _ half frames s))
  | fltsvc => cases h; exact .held (.of_sch (fltsvc_frame _ s).sch)
  | schsvc =>
    cases h
    rcases schsvc_cases s with ⟨_, e⟩ | ⟨_, e⟩ <;> rw [e]
    · exact .fired (fired_of_cmpIf_cleared (schFire_fired _))
    · exact .held (.refl s)
  | tmo => cases h; exact .fired (schFire_fired s)
  | reset => exact .reset s t

/-- Settles O57: of the effects a move can have on the slot, firing is the only one that disarms it
without writing it over. -/
theorem slotHeldUntilConsumed : Obligations.SlotHeldUntilConsumed := by
  intro m s t harmed h
  cases perform_slotEffect h with
  | held hheld => exact .inl ⟨hheld.armed.trans harmed, hheld.event, hheld.deadline⟩
  | fired hfired =>
    obtain ⟨hdisarmed, _, _, hevents, _⟩ := hfired
    rw [if_pos harmed] at hevents
    exact .inr (.inl ⟨hdisarmed, hevents⟩)
  | reset => exact .inr (.inr (.inl rfl))
  | written _ _ hw => exact .inr (.inr (.inr ⟨_, rfl, hw⟩))

/-! ### Runs -/

theorem performAll_cons_eq_next {m : Move} {ms : List Move} {s t : State}
    (h : performAll (m :: ms) s = .next t) :
    ∃ u, perform m s = .next u ∧ performAll ms u = .next t := by
  rw [performAll] at h
  split at h
  next u hu => exact ⟨u, hu, h⟩
  all_goals cases h

/-! ### A scheduled event reaches the port once (R177) -/

/-- The armed slot is a token for one emission of its event: what the port gains of that event and
what is still armed make up what was armed. -/
structure SlotSpent (s t : State) : Prop where
  event : t.sch.event = s.sch.event
  emitted : ∃ l, t.events = s.events ++ l ∧
    (l.filter fun p => p.1 = s.sch.event).length + t.sch.armed.toNat = s.sch.armed.toNat

/-- A move that holds the slot and emits nothing but other events spends nothing. -/
theorem SlotSpent.of_held {s t : State} {l : List (Event × Word)} (h : SlotHeld s t)
    (hevents : t.events = s.events ++ l) (hother : ∀ p ∈ l, p.1 ≠ s.sch.event) :
    SlotSpent s t := by
  have hnone : (l.filter fun p => p.1 = s.sch.event) = [] := by simpa using hother
  refine ⟨h.event, l, hevents, ?_⟩
  rw [hnone, h.armed, List.length_nil, Nat.zero_add]

theorem SlotSpent.refl (s : State) : SlotSpent s s :=
  .of_held (.refl s) (List.append_nil _).symm nofun

theorem SlotSpent.trans {s t u : State} (h : SlotSpent s t) (k : SlotSpent t u) :
    SlotSpent s u := by
  obtain ⟨hevent, l, hevents, hcount⟩ := h
  obtain ⟨kevent, l', kevents, kcount⟩ := k
  refine ⟨kevent.trans hevent, l ++ l', by rw [kevents, hevents, List.append_assoc], ?_⟩
  rw [hevent] at kcount
  rw [List.filter_append, List.length_append]
  omega

theorem SlotSpent.of_fired {s t : State} (h : Claim.Fired s t) : SlotSpent s t := by
  obtain ⟨hdisarmed, hevent, _, hevents, _⟩ := h
  refine ⟨hevent, _, hevents, ?_⟩
  cases harmed : s.sch.armed <;> simp [hdisarmed]

/-- FLTSVC emits ZCD or nothing (R142, R149). -/
theorem fltsvc_emits_zcd (c : Config) (s : State) :
    ∃ l, (fltsvc c s).events = s.events ++ l ∧ ∀ p ∈ l, p.1 = .zcd := by
  have hsample (h : Half) :
      ∃ l, (fltSample c h s).events = s.events ++ l ∧ ∀ p ∈ l, p.1 = .zcd := by
    rcases oneZcdPerSample c h s with ⟨hevents, _⟩ | ⟨hevents, _⟩
    · exact ⟨[], hevents.trans (List.append_nil _).symm, nofun⟩
    · exact ⟨_, hevents, by simp⟩
  rcases fltsvc_cases c s with ⟨_, e⟩ | ⟨_, _, e⟩ | ⟨_, _, e⟩ <;> rw [e]
  · exact hsample 1
  · exact hsample 0
  · exact ⟨[], (List.append_nil _).symm, nofun⟩

theorem agentMove_slotSpent {m : Move} {s t : State} (hm : agentMove m = true)
    (hevent : s.sch.event ≠ .zcd) (h : perform m s = .next t) : SlotSpent s t := by
  cases m with
  | beat w => cases hm
  | reset => cases hm
  | tick =>
    cases h
    exact .of_held (tick_slotHeld s) (List.append_nil _).symm nofun
  | adc half frames =>
    cases h
    refine .of_held (.of_sch (adcFill_sch _ half frames s)) (l := []) ?_ nofun
    rw [adcFill_eq, List.append_nil]
  | fltsvc =>
    cases h
    obtain ⟨l, hevents, hzcd⟩ := fltsvc_emits_zcd Config.impl s
    exact .of_held (.of_sch (fltsvc_frame _ s).sch) hevents fun p hp e =>
      hevent (e.symm.trans (hzcd p hp))
  | schsvc =>
    cases h
    rcases schsvc_cases s with ⟨_, e⟩ | ⟨_, e⟩ <;> rw [e]
    · exact .of_fired (fired_of_cmpIf_cleared (schFire_fired _))
    · exact .refl s
  | tmo =>
    cases h
    exact .of_fired (schFire_fired s)

theorem performAll_slotSpent {ms : List Move} {s t : State}
    (hms : ∀ m ∈ ms, agentMove m = true) (hevent : s.sch.event ≠ .zcd)
    (h : performAll ms s = .next t) : SlotSpent s t := by
  induction ms generalizing s with
  | nil => cases h; exact .refl _
  | cons m ms ih =>
    obtain ⟨u, hmove, hrest⟩ := performAll_cons_eq_next h
    rw [List.forall_mem_cons] at hms
    have hspent := agentMove_slotSpent hms.1 hevent hmove
    exact hspent.trans (ih hms.2 (by rwa [hspent.event]) hrest)

/-- Settles O56: the scheduled slot's one token is either still armed or on the event port. -/
theorem scheduledEventConsumedOnce : Obligations.ScheduledEventConsumedOnce := by
  intro e d s t ms he hms h
  obtain ⟨_, l, hevents, hcount⟩ := performAll_slotSpent hms he h
  refine ⟨l, hevents, ?_⟩
  have htoken : (l.filter fun p => p.1 = e).length + t.sch.armed.toNat = 1 := hcount
  cases harmed : t.sch.armed <;> simpa [harmed] using htoken

/-! ### The match comes on time (R173, R274) -/

/-- The counter meets the deadline within the next `n` CLOCK steps. -/
def MatchWithin (n : Nat) (s : State) : Prop :=
  ∃ k, 1 ≤ k ∧ k ≤ n ∧ s.sys.cnt + BitVec.ofNat 32 k = s.sch.deadline

/-- `n` CLOCK steps went by, with nothing else done to the slot or the counter. -/
structure TimePassed (n : Nat) (s t : State) : Prop where
  slot : SlotHeld s t
  cnt : t.sys.cnt = s.sys.cnt + BitVec.ofNat 32 n
  pending : t.sch.cmpIf = true ↔ s.sch.cmpIf = true ∨ MatchWithin n s

theorem not_matchWithin_zero (s : State) : ¬ MatchWithin 0 s := by
  rintro ⟨k, hpos, hzero, _⟩
  omega

theorem matchWithin_one_iff (s : State) : MatchWithin 1 s ↔ s.sys.cnt + 1 = s.sch.deadline := by
  constructor
  · rintro ⟨k, hpos, hone, hmatch⟩
    obtain rfl : k = 1 := by omega
    exact hmatch
  · exact fun hmatch => ⟨1, le_rfl, le_rfl, hmatch⟩

theorem TimePassed.of_kept {s t : State} (hsch : t.sch = s.sch) (hcnt : t.sys.cnt = s.sys.cnt) :
    TimePassed 0 s t := by
  refine ⟨.of_sch hsch, hcnt.trans (BitVec.add_zero _).symm, ?_⟩
  rw [hsch, or_iff_left (not_matchWithin_zero s)]

theorem TimePassed.of_tick (s : State) : TimePassed 1 s (tick s) := by
  refine ⟨tick_slotHeld s, rfl, ?_⟩
  rw [matchWithin_one_iff]
  exact tick_cmpIf_iff s

/-- The deadline is met within `n + n'` steps in the first `n` or in the `n'` after them. -/
theorem TimePassed.matchWithin_add_iff {n n' : Nat} {s t : State} (h : TimePassed n s t) :
    MatchWithin (n + n') s ↔ MatchWithin n s ∨ MatchWithin n' t := by
  have hlater (k : Nat) : t.sys.cnt + BitVec.ofNat 32 k = t.sch.deadline ↔
      s.sys.cnt + BitVec.ofNat 32 (n + k) = s.sch.deadline := by
    rw [h.cnt, h.slot.deadline, BitVec.add_assoc, BitVec.ofNat_add]
  constructor
  · rintro ⟨k, hpos, hle, hmatch⟩
    by_cases hfirst : k ≤ n
    · exact .inl ⟨k, hpos, hfirst, hmatch⟩
    · refine .inr ⟨k - n, by omega, by omega, (hlater _).2 ?_⟩
      rwa [Nat.add_sub_cancel' (by omega)]
  · rintro (⟨k, hpos, hle, hmatch⟩ | ⟨k, hpos, hle, hmatch⟩)
    · exact ⟨k, hpos, by omega, hmatch⟩
    · exact ⟨n + k, by omega, by omega, (hlater k).1 hmatch⟩

theorem TimePassed.trans {n n' : Nat} {s t u : State} (h : TimePassed n s t)
    (k : TimePassed n' t u) : TimePassed (n + n') s u := by
  refine ⟨h.slot.trans k.slot, ?_, ?_⟩
  · rw [k.cnt, h.cnt, BitVec.add_assoc, BitVec.ofNat_add]
  · rw [k.pending, h.pending, h.matchWithin_add_iff, or_assoc]

theorem timeMove_timePassed {m : Move} {s t : State} (hm : timeMove m = true)
    (h : perform m s = .next t) : TimePassed ([m].count .tick) s t := by
  cases m with
  | tick => cases h; exact .of_tick s
  | adc half frames =>
    cases h
    exact .of_kept (adcFill_sch _ half frames s) (by rw [adcFill_eq])
  | fltsvc =>
    cases h
    have hframe := fltsvc_frame Config.impl s
    exact .of_kept hframe.sch hframe.cnt
  | beat | schsvc | tmo | reset => cases hm

theorem performAll_timePassed {ms : List Move} {s t : State}
    (hms : ∀ m ∈ ms, timeMove m = true) (h : performAll ms s = .next t) :
    TimePassed (ms.count .tick) s t := by
  induction ms generalizing s with
  | nil => cases h; exact .of_kept rfl rfl
  | cons m ms ih =>
    obtain ⟨u, hmove, hrest⟩ := performAll_cons_eq_next h
    rw [List.forall_mem_cons] at hms
    have hcount : (m :: ms).count .tick = [m].count .tick + ms.count .tick :=
      List.count_append (l₁ := [m])
    rw [hcount]
    exact (timeMove_timePassed hms.1 hmove).trans (ih hms.2 hrest)

/-- The CLOCK step at which the match of a delay comes: a delay of 0 needs the counter's full wrap
(R274). -/
def matchStep (d : Word) : Nat := if d = 0 then 2 ^ 32 else d.toNat

theorem matchStep_eq (d : Word) :
    matchStep d = if d.toNat = 0 then 2 ^ 32 else d.toNat :=
  if_congr BitVec.toNat_inj.symm rfl rfl

/-- Among the steps of one wrap exactly one is at the distance of the delay. -/
theorem ofNat_eq_iff_eq_matchStep {k : Nat} {d : Word} (hpos : 1 ≤ k) (hle : k ≤ 2 ^ 32) :
    BitVec.ofNat 32 k = d ↔ k = matchStep d := by
  have hd := d.isLt
  rw [matchStep_eq, ← BitVec.toNat_inj, BitVec.toNat_ofNat]
  split_ifs <;> omega

theorem matchStep_range (d : Word) : 1 ≤ matchStep d ∧ matchStep d ≤ 2 ^ 32 := by
  have hd := d.isLt
  rw [matchStep_eq]
  split_ifs <;> omega

theorem matchWithin_schedule_iff (e : Event) (d : Word) (s : State) {n : Nat} (hn : n ≤ 2 ^ 32) :
    MatchWithin n (schedule e d s) ↔ matchStep d ≤ n := by
  have hmatch {k : Nat} (hpos : 1 ≤ k) (hle : k ≤ 2 ^ 32) :
      s.sys.cnt + BitVec.ofNat 32 k = s.sys.cnt + d ↔ k = matchStep d := by
    rw [BitVec.add_right_inj, ofNat_eq_iff_eq_matchStep hpos hle]
  obtain ⟨hpos, hle⟩ := matchStep_range d
  constructor
  · rintro ⟨k, hk, hkn, heq⟩
    rwa [← (hmatch hk (hkn.trans hn)).1 heq]
  · exact fun hstep => ⟨matchStep d, hpos, hstep, (hmatch hpos hle).2 rfl⟩

/-- Settles O55: the run passes as much time as it has CLOCK steps, and within one wrap of the
counter the deadline is met at step `matchStep` alone. -/
theorem deadlineMatchesOnTime : Obligations.DeadlineMatchesOnTime := by
  intro e d s t ms hms hcount h
  obtain ⟨hslot, _, hpending⟩ := performAll_timePassed hms h
  refine ⟨?_, hslot.armed, hslot.event⟩
  have hcleared : (schedule e d s).sch.cmpIf = false := rfl
  rw [hpending, hcleared, matchWithin_schedule_iff e d s hcount, or_iff_right Bool.false_ne_true]
  rfl

end Sys2Proof.Machine
end

section
/-! Proofs for `44_phase_driver.md`: what each PHD operation answers and changes (R190 to R197), the
printed gate table (R189), and the cycle of six steps (R198 vi). -/

namespace Sys2Proof.Machine

open Sys2Proof

/-! ### The gate table (R189) -/

/-- Settles O23: the table mode by mode, each row of it over the six steps. -/
theorem gatesMatchPrintedTable : Obligations.GatesMatchPrintedTable := by
  refine fun st m => ⟨?_, gatesOf_disarmed st m⟩
  revert st
  cases m <;> decide

/-! ### Operands (R187, R194, R195) -/

/-- Field A up to 5 is the code of the drive mode it names. -/
theorem exists_modeOperand {a : BitVec 8} (ha : a.toNat ≤ 5) :
    ∃ m, modeOperand a = some m ∧ (modeCode m).toNat = a.toNat := by
  unfold modeOperand
  split
  case h_7 => simp only [imp_false] at *; omega
  all_goals next hcode => exact ⟨_, rfl, hcode.symm⟩

theorem modeOperand_of_not_le {a : BitVec 8} (ha : ¬ a.toNat ≤ 5) : modeOperand a = none := by
  unfold modeOperand
  split
  case h_7 => rfl
  all_goals omega

theorem exists_stepOperand {a : BitVec 8} (ha : a.toNat ≤ 5) :
    ∃ st, stepOperand a = some st ∧ st.val = a.toNat :=
  ⟨_, dif_pos (Nat.lt_succ_of_le ha), rfl⟩

theorem stepOperand_of_not_le {a : BitVec 8} (ha : ¬ a.toNat ≤ 5) : stepOperand a = none :=
  dif_neg fun h => ha (Nat.le_of_lt_succ h)

/-- A duty up to `DC_ONE` fits the 16 bits of `PHD.DC`. -/
theorem exists_dutyOperand {c : Config} {d : Word} (hd : d.toNat ≤ c.dcOne) :
    ∃ dc, dutyOperand c d = some dc ∧ dc.toNat = d.toNat := by
  have hfits := c.dcOne_range.2
  refine ⟨_, if_pos hd, ?_⟩
  rw [BitVec.toNat_setWidth]
  exact Nat.mod_eq_of_lt (by omega)

theorem dutyOperand_of_not_le {c : Config} {d : Word} (hd : ¬ d.toNat ≤ c.dcOne) :
    dutyOperand c d = none := if_neg hd

/-! ### Frames -/

theorem GatesPushed.respondOk {s : State} (h : GatesPushed s) : GatesPushed (respondOk s) := h

/-- A write of driver registers is seen in the four registers of the unit, each as before unless
excepted. -/
theorem keptBut_of_phd {l : List Nat} {s : State} {p : PhdRegs}
    (hctrl : 0x10 ∈ l ∨ phdCtrlWord p = phdCtrlWord s.phd) (hdc : 0x11 ∈ l ∨ p.dc = s.phd.dc)
    (hgates : 0x12 ∈ l ∨ p.gates = s.phd.gates) (hfreq : 0x13 ∈ l ∨ p.pwmFreq = s.phd.pwmFreq) :
    KeptBut l s { s with phd := p } := by
  refine ⟨regsKept_of_readReg fun r hr => ?_, fun _ => rfl, fun _ => rfl, rfl, rfl, rfl⟩
  cases r with
  | phdCtrl => exact hctrl.resolve_left hr
  | phdDc => exact congrArg (BitVec.setWidth 32) (hdc.resolve_left hr)
  | phdGates => exact congrArg (BitVec.setWidth 32) (hgates.resolve_left hr)
  | phdPwmfreq => exact hfreq.resolve_left hr
  | _ => rfl

theorem keptBut_driverOff (s : State) : KeptBut [0x10, 0x11, 0x12] s (driverOff s) :=
  keptBut_of_phd (.inl (by decide)) (.inl (by decide)) (.inl (by decide)) (.inr rfl)

/-- The sticky bit is seen in `SYS_STAT` alone, register 0x01 (R25). -/
theorem keptBut_phdFailsafe (s : State) :
    KeptBut [0x01] s { s with sys := { s.sys with phdFailsafe := true } } := by
  refine ⟨regsKept_of_readReg fun r hr => ?_, fun _ => rfl, fun _ => rfl, rfl, rfl, rfl⟩
  cases r with
  | sysStat => exact absurd (by decide) hr
  | _ => rfl

theorem keptBut_failsafe (s : State) : KeptBut [0x01, 0x10, 0x11, 0x12] s (failsafe s) :=
  (((keptBut_phdFailsafe s).mono (by decide)).trans
    ((keptBut_driverOff _).mono (by decide))).respond .failSafe 0

theorem keptBut_commutate (st : CommStep) (s : State) :
    KeptBut [0x10, 0x12, 0x39] s (commutate st s) := by
  refine ⟨regsKept_of_readReg fun r hr => ?_, fun _ => rfl, fun _ => rfl, rfl, rfl, rfl⟩
  cases r with
  | phdCtrl | phdGates | telLastSwap => exact absurd (by decide) hr
  | _ => rfl

/-! ### The fail-safe path (R197) -/

theorem failsSafe_failsafe (s : State) : FailsSafe s (failsafe s) :=
  ⟨rfl, rfl, rfl, rfl, rfl, rfl, rfl, rfl, rfl, rfl, keptBut_failsafe s⟩

/-- The shape of an operation that checks its operand: what it promises where the check passes,
`failsafe()` where it does not. -/
theorem exists_next_or_failsSafe {i : Instr} {s : State} {valid : Prop} [Decidable valid]
    {post : State → Prop} (hvalid : valid → ∃ t, exec i s = .next t ∧ post t)
    (hinvalid : ¬ valid → exec i s = .next (failsafe s)) :
    ∃ t, exec i s = .next t ∧ if valid then post t else FailsSafe s t := by
  by_cases h : valid
  · simpa only [if_pos h] using hvalid h
  · refine ⟨_, hinvalid h, ?_⟩
    rw [if_neg h]
    exact failsSafe_failsafe s

/-! ### PHD.INIT (R190) -/

theorem toNat_encode_phdInit (a : BitVec 8) (v : Word) :
    (encode (.phdInit a v)).toNat = 0x4000000000000000 + a.toNat * 2 ^ 48 + v.toNat :=
  (toNat_mkBeat 4 0 a v).trans (by simp)

/-- The driver registers PHD.INIT leaves. -/
def initialPhd (m : DriveMode) (cfg : Word) : PhdRegs :=
  { armed := false, step := 0, mode := m, dc := 0, gates := 0, pwmFreq := cfg }

theorem exec_phdInit_of_some {a : BitVec 8} {m : DriveMode} (ha : modeOperand a = some m)
    (cfg : Word) (s : State) :
    exec (.phdInit a cfg) s = .next (respondOk { s with phd := initialPhd m cfg }) := by
  simp only [exec, execPhdInit, ha, initialPhd]

theorem exec_phdInit_of_none {a : BitVec 8} (ha : modeOperand a = none) (cfg : Word) (s : State) :
    exec (.phdInit a cfg) s = .next (failsafe s) := by
  simp only [exec, execPhdInit, ha]

theorem keptBut_initialPhd (m : DriveMode) (cfg : Word) (s : State) :
    KeptBut [0x10, 0x11, 0x12, 0x13] s { s with phd := initialPhd m cfg } :=
  keptBut_of_phd (.inl (by decide)) (.inl (by decide)) (.inl (by decide)) (.inl (by decide))

/-- Settles O24: a code up to 5 names a mode and the driver registers are written for it. -/
theorem initResult : Obligations.InitResult := by
  refine ⟨toNat_encode_phdInit, fun a cfg s => exists_next_or_failsSafe (fun ha => ?valid)
    fun ha => exec_phdInit_of_none (modeOperand_of_not_le ha) cfg s⟩
  case valid =>
    obtain ⟨m, hop, hcode⟩ := exists_modeOperand ha
    exact ⟨_, exec_phdInit_of_some hop cfg s, rfl, rfl, rfl, rfl, hcode, rfl, rfl, rfl,
      (keptBut_initialPhd m cfg s).respond .ok 0⟩

/-! ### PHD.OFF and PHD.ARM (R191, R192) -/

/-- Settles O25: the beat is PHD.OFF's encoding, and the operation answers past `off()`. -/
theorem offResult : Obligations.OffResult :=
  ⟨decodeEncodeRoundTrip .phdOff rfl, fun s =>
    ⟨respondOk (driverOff s), rfl, rfl, rfl, rfl, rfl, rfl, rfl, rfl,
      (keptBut_driverOff s).respond .ok 0⟩⟩

theorem keptBut_arm (s : State) :
    KeptBut [0x10, 0x12] s (push { s with phd := { s.phd with armed := true } }) :=
  keptBut_of_phd (.inl (by decide)) (.inr rfl) (.inl (by decide)) (.inr rfl)

/-- Settles O26: the beat is PHD.ARM's encoding, and arming pushes the current step and mode. -/
theorem armResult : Obligations.ArmResult :=
  ⟨decodeEncodeRoundTrip .phdArm rfl, fun s =>
    ⟨_, rfl, rfl, rfl, rfl, rfl, rfl, rfl, (keptBut_arm s).respond .ok 0⟩⟩

/-! ### PHD.SETMODE (R193) -/

theorem toNat_encode_phdSetmode (a : BitVec 8) :
    (encode (.phdSetmode a)).toNat = 0x4300000000000000 + a.toNat * 2 ^ 48 :=
  (toNat_mkBeat 4 3 a 0).trans (by simp)

theorem exec_phdSetmode_of_some {a : BitVec 8} {m : DriveMode} (ha : modeOperand a = some m)
    (s : State) : exec (.phdSetmode a) s =
      .next (respondOk (push { s with phd := { s.phd with mode := m } })) := by
  simp only [exec, execPhdSetmode, ha]

theorem exec_phdSetmode_of_none {a : BitVec 8} (ha : modeOperand a = none) (s : State) :
    exec (.phdSetmode a) s = .next (failsafe s) := by
  simp only [exec, execPhdSetmode, ha]

theorem keptBut_setMode (m : DriveMode) (s : State) :
    KeptBut [0x10, 0x12] s (push { s with phd := { s.phd with mode := m } }) :=
  keptBut_of_phd (.inl (by decide)) (.inr rfl) (.inl (by decide)) (.inr rfl)

/-- Settles O27: a code up to 5 names the mode stored and pushed. -/
theorem setmodeResult : Obligations.SetmodeResult := by
  refine ⟨toNat_encode_phdSetmode, fun a s => exists_next_or_failsSafe (fun ha => ?valid)
    fun ha => exec_phdSetmode_of_none (modeOperand_of_not_le ha) s⟩
  case valid =>
    obtain ⟨m, hop, hcode⟩ := exists_modeOperand ha
    exact ⟨_, exec_phdSetmode_of_some hop s, rfl, hcode, rfl, rfl, (gatesPushed_push _).respondOk,
      rfl, (keptBut_setMode m s).respond .ok 0⟩

/-! ### PHD.SETDUTY (R194) -/

theorem toNat_encode_phdSetduty (d : Word) :
    (encode (.phdSetduty d)).toNat = 0x4400000000000000 + d.toNat :=
  (toNat_mkBeat 4 4 0 d).trans (by simp)

theorem exec_phdSetduty_of_some {d : Word} {dc : BitVec 16}
    (hd : dutyOperand Config.impl d = some dc) (s : State) : exec (.phdSetduty d) s =
      .next (respondOk (push { s with phd := { s.phd with dc := dc } })) := by
  simp only [exec, execPhdSetduty, hd]

theorem exec_phdSetduty_of_none {d : Word} (hd : dutyOperand Config.impl d = none) (s : State) :
    exec (.phdSetduty d) s = .next (failsafe s) := by
  simp only [exec, execPhdSetduty, hd]

theorem keptBut_setDuty (dc : BitVec 16) (s : State) :
    KeptBut [0x11, 0x12] s (push { s with phd := { s.phd with dc := dc } }) :=
  keptBut_of_phd (.inr rfl) (.inl (by decide)) (.inl (by decide)) (.inr rfl)

/-- Settles O28: a duty up to `DC_ONE` is stored whole and pushed. -/
theorem setdutyResult : Obligations.SetdutyResult := by
  refine ⟨toNat_encode_phdSetduty, fun d s => exists_next_or_failsSafe (fun hd => ?valid)
    fun hd => exec_phdSetduty_of_none (dutyOperand_of_not_le hd) s⟩
  case valid =>
    obtain ⟨dc, hop, hvalue⟩ := exists_dutyOperand hd
    exact ⟨_, exec_phdSetduty_of_some hop s, rfl, hvalue, (gatesPushed_push _).respondOk, rfl,
      (keptBut_setDuty dc s).respond .ok 0⟩

/-! ### PHD.SETSTATE and PHD.NEXT (R195, R196) -/

/-- A commutation always pushes. -/
theorem gatesPushed_commutate (st : CommStep) (s : State) : GatesPushed (commutate st s) :=
  gatesPushed_push _

theorem toNat_encode_phdSetstate (a : BitVec 8) :
    (encode (.phdSetstate a)).toNat = 0x4500000000000000 + a.toNat * 2 ^ 48 :=
  (toNat_mkBeat 4 5 a 0).trans (by simp)

theorem exec_phdSetstate_of_some {a : BitVec 8} {st : CommStep} (ha : stepOperand a = some st)
    (s : State) : exec (.phdSetstate a) s = .next (respondOk (commutate st s)) := by
  simp only [exec, execPhdSetstate, ha]

theorem exec_phdSetstate_of_none {a : BitVec 8} (ha : stepOperand a = none) (s : State) :
    exec (.phdSetstate a) s = .next (failsafe s) := by
  simp only [exec, execPhdSetstate, ha]

/-- Settles O29: a value up to 5 is the step commutated to. -/
theorem setstateResult : Obligations.SetstateResult := by
  refine ⟨toNat_encode_phdSetstate, fun a s => exists_next_or_failsSafe (fun ha => ?valid)
    fun ha => exec_phdSetstate_of_none (stepOperand_of_not_le ha) s⟩
  case valid =>
    obtain ⟨st, hop, hvalue⟩ := exists_stepOperand ha
    exact ⟨_, exec_phdSetstate_of_some hop s, rfl, hvalue, rfl, rfl, rfl,
      (gatesPushed_commutate st s).respondOk, rfl, (keptBut_commutate st s).respond .ok 0⟩

/-- The state after PHD.NEXT. -/
def afterNext (s : State) : State := respondOk (commutate (nextStep s.phd.step) s)

theorem exec_phdNext (s : State) : exec .phdNext s = .next (afterNext s) := rfl

theorem decode_phdNext : decode 0x4600000000000000 = .ok .phdNext :=
  decodeEncodeRoundTrip .phdNext rfl

theorem perform_phdNext (s : State) : perform (.beat 0x4600000000000000) s = .next (afterNext s) :=
  (perform_beat_of_decode decode_phdNext s).trans (exec_phdNext s)

/-- Settles O30: the beat is PHD.NEXT's encoding, and the operation commutates to the next step. -/
theorem nextResult : Obligations.NextResult :=
  ⟨decode_phdNext, fun s =>
    ⟨afterNext s, exec_phdNext s, rfl, rfl, rfl, rfl, rfl, (gatesPushed_commutate _ s).respondOk,
      rfl, (keptBut_commutate _ s).respond .ok 0⟩⟩

/-! ### The cycle of six steps (R198 vi) -/

/-- A run of one move that always answers is an iteration of its effect. -/
theorem performAll_replicate {m : Move} {f : State → State} (h : ∀ s, perform m s = .next (f s))
    (n : Nat) (s : State) : performAll (List.replicate n m) s = .next (f^[n] s) := by
  induction n generalizing s with
  | zero => rfl
  | succ n ih =>
    rw [List.replicate_succ, performAll, h, Function.iterate_succ_apply]
    exact ih (f s)

/-- The driver registers at another step, pushed. -/
def atStep (st : CommStep) (p : PhdRegs) : PhdRegs :=
  { p with step := st, gates := gatesOf p.armed st p.mode }

theorem atStep_self {s : State} (h : GatesPushed s) : atStep s.phd.step s.phd = s.phd :=
  congrArg State.phd (push_of_gatesPushed h)

theorem afterNext_phd (s : State) : (afterNext s).phd = atStep (nextStep s.phd.step) s.phd := rfl

/-- Only the step and the gates it gives tell the driver after some PHD.NEXT from the driver
before. -/
theorem iterate_afterNext_phd {s : State} (h : GatesPushed s) (n : Nat) :
    (afterNext^[n] s).phd = atStep (nextStep^[n] s.phd.step) s.phd := by
  induction n with
  | zero => exact (atStep_self h).symm
  | succ n ih =>
    rw [Function.iterate_succ_apply', Function.iterate_succ_apply', afterNext_phd, ih]
    rfl

theorem iterate_afterNext_cnt (n : Nat) (s : State) : (afterNext^[n] s).sys.cnt = s.sys.cnt := by
  induction n with
  | zero => rfl
  | succ n ih => rw [Function.iterate_succ_apply']; exact ih

theorem iterate_nextStep_six (st : CommStep) : nextStep^[6] st = st := by
  revert st
  decide

/-- Settles O31: the run is `afterNext` six times over, and `nextStep` six times over is the
identity. -/
theorem sixNextsReturn : Obligations.SixNextsReturn := fun s h => by
  refine ⟨_, performAll_replicate perform_phdNext 6 s, ?_, ?_⟩
  · rw [iterate_afterNext_phd h, iterate_nextStep_six, atStep_self h]
  · rw [Function.iterate_succ_apply']
    exact iterate_afterNext_cnt 5 s

end Sys2Proof.Machine
end

section
/-! Proofs for `44_phase_driver.md` R198 (ii) to (v): every move leaves the driver registers alone or
ends in `push()`, and what `push()` computes is safe. -/

namespace Sys2Proof.Machine

open Sys2Proof

/-- What a move can do to the driver: leave its registers alone, or end with the gates pushed. -/
def DriverEffect (s t : State) : Prop := t.phd = s.phd ∨ GatesPushed t

theorem DriverEffect.gatesPushed {s t : State} (h : DriverEffect s t) (hs : GatesPushed s) :
    GatesPushed t := by
  rcases h with hkept | hpushed
  · rwa [GatesPushed, hkept]
  · exact hpushed

/-! ### Operations -/

theorem controlMode_driverEffect (c : Config) (s : State) : DriverEffect s (controlMode c s) := by
  by_cases hopen : setting s setMode = 0
  · rw [controlMode_open hopen]
    exact .inr (gatesPushed_push _)
  by_cases hclosed : setting s setMode = 1
  · rw [controlMode_closed hclosed]
    exact .inr (gatesPushed_push _)
  · rw [controlMode_unrecognised hopen hclosed]
    exact .inl rfl

/-- PID.STEP pushes wherever it forwards a duty, and otherwise leaves the driver alone. -/
theorem pidStep_driverEffect (c : Config) (s : State) : DriverEffect s (pidStep c s) := by
  cases hover : overCurrent s with
  | true =>
    rw [pidStep_limited hover]
    exact .inr (gatesPushed_push _)
  | false =>
    cases hlock : lockGate s with
    | false =>
      rw [pidStep_unlocked hover hlock]
      exact .inl rfl
    | true =>
      rw [pidStep_locked hover hlock]
      exact controlMode_driverEffect c (withLock true s)

theorem schFire_phd (s : State) : (schFire s).phd = s.phd := by
  rcases schFire_cases s with ⟨_, e⟩ | ⟨_, e⟩ <;> rw [e]

theorem schsvc_phd (s : State) : (schsvc s).phd = s.phd := by
  rcases schsvc_cases s with ⟨_, e⟩ | ⟨_, e⟩ <;> rw [e]
  exact schFire_phd _

theorem gatesPushed_failsafe (s : State) : GatesPushed (failsafe s) := rfl

theorem exec_driverEffect {i : Instr} {s t : State} (h : exec i s = .next t) :
    DriverEffect s t := by
  cases i <;> cases h
  case sysNop | sysTelzero => exact .inl rfl
  case sysRdreg | schSchedule | schInject => split <;> exact .inl rfl
  case sysWrreg a v =>
    split
    next ht => exact .inl (writeIndex_frame ht).phd
    next => exact .inl rfl
  case pidStep => exact pidStep_driverEffect _ s
  case fltSample a =>
    split
    next half _ => exact .inl (fltSample_frame _ half s).phd
    next => exact .inl rfl
  case schFire => exact .inl (schFire_phd s)
  case phdOff | phdArm => exact .inr (gatesPushed_push _).respondOk
  case phdNext => exact .inr (gatesPushed_commutate _ s).respondOk
  case phdInit a cfg =>
    split
    next m _ => exact .inr (gatesOf_disarmed 0 m).symm
    next => exact .inr (gatesPushed_failsafe s)
  case phdSetmode | phdSetduty | phdSetstate =>
    split
    · exact .inr (gatesPushed_push _).respondOk
    · exact .inr (gatesPushed_failsafe s)

/-! ### Moves and steps -/

theorem perform_driverEffect {m : Move} {s t : State} (h : perform m s = .next t) :
    DriverEffect s t := by
  cases m with
  | beat w =>
    cases hw : decode w with
    | ok i =>
      rw [perform_beat_of_decode hw] at h
      exact exec_driverEffect h
    | error e =>
      rw [perform_beat_of_illegal hw] at h
      cases h
      exact .inl rfl
  | tick => cases h; exact .inl rfl
  | adc half frames => cases h; rw [adcFill_eq]; exact .inl rfl
  | fltsvc => cases h; exact .inl (fltsvc_frame _ s).phd
  | schsvc => cases h; exact .inl (schsvc_phd s)
  | tmo => cases h; exact .inl (schFire_phd s)
  | reset => cases h; exact .inr rfl

/-- Taking the move to come leaves the driver alone. -/
theorem step_driverEffect {s t : State} (h : step s = .next t) : DriverEffect s t := by
  have heffect := perform_driverEffect h
  rwa [takeMove_state] at heffect

/-- Settles O12: the gates stay pushed by `step_driverEffect`, and pushed gates are safe by the
table. -/
theorem gatesStaySafe : Obligations.GatesStaySafe := fun _ _ hs h =>
  have hpushed := (step_driverEffect h).gatesPushed hs
  ⟨hpushed, gatesSafe_of_pushed hpushed⟩

end Sys2Proof.Machine
end

section
/-! Proofs for `45_host_sequencer_contract.md`: every step answers a next state. -/

namespace Sys2Proof.Machine

open Sys2Proof

/-- Each operation's arm is `.next` of a state whatever its operands: one out of range is answered by
an error response or the fail-safe state, never by a stop. -/
theorem exec_answers (i : Instr) (s : State) : ∃ t, exec i s = .next t := by
  cases i <;> exact ⟨_, rfl⟩

/-- A beat that decodes is performed and one that does not is answered ILLEGAL; the agents and the
reset input have one next state each. -/
theorem perform_answers (m : Move) (s : State) : ∃ t, perform m s = .next t := by
  cases m with
  | beat w =>
    cases hw : decode w with
    | ok i => rw [perform_beat_of_decode hw]; exact exec_answers i s
    | error e => exact ⟨_, perform_beat_of_illegal hw s⟩
  | tick | adc | fltsvc | schsvc | tmo | reset => exact ⟨_, rfl⟩

/-- Settles O7: a step performs some move, and every move answers. -/
theorem everyStepAnswers : Obligations.EveryStepAnswers := fun _ => perform_answers _ _

end Sys2Proof.Machine
end

section
/-! Proofs for `60_exceptions.md` R241 and R243: which events a move can append to the event port,
and that it appends one at most, stamped with the counter. -/

namespace Sys2Proof.Machine

open Sys2Proof

/-! ### At most one event of a kind -/

/-- The event port is as before, or has grown at its end by one event of kind `P`, stamped with the
counter. -/
def EmitsAtMost (P : Event → Prop) (s t : State) : Prop :=
  t.events = s.events ∨ ∃ e, P e ∧ t.events = s.events ++ [(e, s.sys.cnt)]

section
variable {P Q : Event → Prop} {s t : State}

theorem EmitsAtMost.of_events_eq (h : t.events = s.events) : EmitsAtMost P s t := .inl h

theorem EmitsAtMost.of_emitted {e : Event} (he : P e)
    (h : t.events = s.events ++ [(e, s.sys.cnt)]) : EmitsAtMost P s t := .inr ⟨e, he, h⟩

theorem EmitsAtMost.mono (h : EmitsAtMost P s t) (hPQ : ∀ e, P e → Q e) : EmitsAtMost Q s t :=
  h.imp_right fun ⟨e, he, hevents⟩ => ⟨e, hPQ e he, hevents⟩

/-- The response port is not the event port. -/
theorem EmitsAtMost.respondOk (h : EmitsAtMost P s t) : EmitsAtMost P s (respondOk t) := h

theorem EmitsAtMost.events_eq (h : EmitsAtMost P s t) (hP : ∀ e, ¬ P e) : t.events = s.events :=
  h.resolve_right fun ⟨e, he, _⟩ => hP e he

/-- The port's growth determines the event emitted. -/
theorem EmitsAtMost.kind (h : EmitsAtMost P s t) {e : Event}
    (hgrown : t.events = s.events ++ [(e, s.sys.cnt)]) : P e := by
  rcases h with hsame | ⟨e', he', hevents⟩
  · exact absurd (hgrown.symm.trans hsame) (by simp)
  · have hentry : (e', s.sys.cnt) = (e, s.sys.cnt) := by simpa using hevents.symm.trans hgrown
    obtain rfl : e' = e := congrArg Prod.fst hentry
    exact he'

end

/-! ### The operations that emit -/

/-- SCH.FIRE emits the stored event of an armed slot (R176). -/
theorem schFire_emitsAtMost (s : State) :
    EmitsAtMost (fun e => s.sch.armed = true ∧ e = s.sch.event) s (schFire s) := by
  rcases schFire_cases s with ⟨harmed, e⟩ | ⟨_, e⟩ <;> rw [e]
  · exact .of_emitted ⟨harmed, rfl⟩ rfl
  · exact .of_events_eq rfl

/-- SCHSVC fires the slot as it stands: clearing the pending bit does not touch what is stored
(R174). -/
theorem schsvc_emitsAtMost (s : State) :
    EmitsAtMost (fun e => s.sch.armed = true ∧ e = s.sch.event) s (schsvc s) := by
  rcases schsvc_cases s with ⟨_, e⟩ | ⟨_, e⟩ <;> rw [e]
  · exact schFire_emitsAtMost { s with sch := { s.sch with cmpIf := false } }
  · exact .of_events_eq rfl

/-- FLT.SAMPLE emits ZCD only (R149). -/
theorem fltSample_emitsAtMost (c : Config) (h : Half) (s : State) :
    EmitsAtMost (· = .zcd) s (fltSample c h s) := by
  rcases oneZcdPerSample c h s with ⟨hevents, _⟩ | ⟨hevents, _⟩
  · exact .of_events_eq hevents
  · exact .of_emitted rfl hevents

theorem fltsvc_emitsAtMost (c : Config) (s : State) : EmitsAtMost (· = .zcd) s (fltsvc c s) := by
  rcases fltsvc_cases c s with ⟨_, e⟩ | ⟨_, _, e⟩ | ⟨_, _, e⟩ <;> rw [e]
  · exact fltSample_emitsAtMost c 1 s
  · exact fltSample_emitsAtMost c 0 s
  · exact .of_events_eq rfl

/-- Of the three modes the unrecognised one alone emits, and it emits FAULT (R130). -/
theorem controlMode_emitsAtMost (s : State) :
    EmitsAtMost (· = .fault) s (controlMode Config.impl s) := by
  by_cases hopen : setting s setMode = 0
  · rw [controlMode_open hopen]
    exact .of_events_eq rfl
  by_cases hclosed : setting s setMode = 1
  · rw [controlMode_closed hclosed]
    obtain ⟨-, -, -, -, hevents, -⟩ := forward_closedMode_result s
    exact .of_events_eq hevents
  · rw [controlMode_unrecognised hopen hclosed]
    exact .of_emitted rfl rfl

theorem pidStep_emitsAtMost (s : State) : EmitsAtMost (· = .fault) s (pidStep Config.impl s) := by
  cases hover : overCurrent s with
  | true =>
    rw [pidStep_limited hover]
    exact .of_events_eq rfl
  | false =>
    cases hlock : lockGate s with
    | false =>
      rw [pidStep_unlocked hover hlock]
      exact .of_events_eq rfl
    | true =>
      rw [pidStep_locked hover hlock]
      exact controlMode_emitsAtMost (withLock true s)

/-! ### Operations -/

/-- The events an operation may emit from a state (R243): an operation without a constructor emits
none. -/
inductive MayEmit : Instr → State → Event → Prop
  | pidStep (s : State) : MayEmit .pidStep s .fault
  | fltSample (a : BitVec 8) (s : State) : MayEmit (.fltSample a) s .zcd
  | schInject {a : BitVec 8} {e : Event} (s : State) (ha : eventOperand a = some e) :
    MayEmit (.schInject a) s e
  | schFire {s : State} (harmed : s.sch.armed = true) : MayEmit .schFire s s.sch.event

theorem exec_emitsAtMost {i : Instr} {s t : State} (h : exec i s = .next t) :
    EmitsAtMost (MayEmit i s) s t := by
  cases i <;> cases h
  case pidStep =>
    exact (pidStep_emitsAtMost s).respondOk.mono fun _ he => he ▸ .pidStep s
  case fltSample a =>
    split
    next half _ =>
      exact (fltSample_emitsAtMost _ half s).respondOk.mono fun _ he => he ▸ .fltSample a s
    next => exact .of_events_eq rfl
  case schInject a =>
    split
    next e ha => exact .of_emitted (.schInject s ha) rfl
    next => exact .of_events_eq rfl
  case schFire =>
    exact (schFire_emitsAtMost s).respondOk.mono fun _ ⟨harmed, he⟩ => he ▸ .schFire harmed
  case sysWrreg a v =>
    split
    next t ht => exact .of_events_eq ((respondOk_events t).trans (events_writeIndex ht))
    next => exact .of_events_eq rfl
  case sysNop | sysTelzero | phdOff | phdArm | phdNext => exact .of_events_eq rfl
  case sysRdreg | schSchedule | phdInit | phdSetmode | phdSetduty | phdSetstate =>
    split <;> exact .of_events_eq rfl

/-! ### Moves -/

/-- The events a move other than reset may emit from a state: a move without a constructor emits
none. -/
inductive MoveMayEmit : Move → State → Event → Prop
  | beat {w : Beat} {i : Instr} {s : State} {e : Event} (hw : decode w = .ok i)
    (he : MayEmit i s e) : MoveMayEmit (.beat w) s e
  | fltsvc (s : State) : MoveMayEmit .fltsvc s .zcd
  | schsvc {s : State} (harmed : s.sch.armed = true) : MoveMayEmit .schsvc s s.sch.event
  | tmo {s : State} (harmed : s.sch.armed = true) : MoveMayEmit .tmo s s.sch.event

theorem perform_emitsAtMost {m : Move} {s t : State} (h : perform m s = .next t)
    (hreset : m ≠ .reset) : EmitsAtMost (MoveMayEmit m s) s t := by
  cases m with
  | beat w =>
    cases hw : decode w with
    | ok i =>
      rw [perform_beat_of_decode hw] at h
      exact (exec_emitsAtMost h).mono fun _ => .beat hw
    | error e =>
      rw [perform_beat_of_illegal hw] at h
      cases h
      exact .of_events_eq rfl
  | tick => cases h; exact .of_events_eq rfl
  | adc half frames => cases h; rw [adcFill_eq]; exact .of_events_eq rfl
  | fltsvc =>
    cases h
    exact (fltsvc_emitsAtMost _ s).mono fun _ he => he ▸ .fltsvc s
  | schsvc =>
    cases h
    exact (schsvc_emitsAtMost s).mono fun _ ⟨harmed, he⟩ => he ▸ .schsvc harmed
  | tmo =>
    cases h
    exact (schFire_emitsAtMost s).mono fun _ ⟨harmed, he⟩ => he ▸ .tmo harmed
  | reset => exact absurd rfl hreset

/-- Settles O17: `perform_emitsAtMost` gives one event at most, of the kinds `MoveMayEmit` lists;
CLOCK and ADC have none there. -/
theorem eventsPerMove : Obligations.EventsPerMove := by
  intro m s t h hreset
  have hemits := perform_emitsAtMost h hreset
  refine ⟨?atMostOne, ?clockAndAdc, fun e hgrown => ?kind⟩
  case atMostOne => exact hemits.imp_right fun ⟨e, _, hevents⟩ => ⟨e, hevents⟩
  case clockAndAdc =>
    rintro (rfl | ⟨half, frames, rfl⟩)
    · exact hemits.events_eq nofun
    · exact hemits.events_eq nofun
  case kind =>
    cases hemits.kind hgrown with
    | fltsvc => exact .inl ⟨rfl, rfl⟩
    | schsvc harmed => exact .inr (.inl ⟨.inl rfl, harmed, rfl⟩)
    | tmo harmed => exact .inr (.inl ⟨.inr rfl, harmed, rfl⟩)
    | beat hw he =>
      refine .inr (.inr ⟨_, rfl, ?_⟩)
      cases he with
      | pidStep => exact .inl ⟨hw, rfl⟩
      | fltSample a => exact .inr (.inl ⟨⟨a, hw⟩, rfl⟩)
      | schInject _ ha => exact .inr (.inr (.inl ⟨_, hw, ha⟩))
      | schFire harmed => exact .inr (.inr (.inr ⟨hw, harmed, rfl⟩))

end Sys2Proof.Machine
end
